-- ==== Sys2Proof/Word.lean ====
section
/-! DEFINITION. Word types of the block: 32-bit registers (00_scope.md R9), bytes (R14), the 64-bit access descriptor
(30_encoding.md R111). -/

namespace Sys2Proof

/-- A 32-bit host register or pin identifier (R9: REG_WIDTH, PIN_ID_WIDTH). -/
abbrev Word := BitVec 32

/-- An unsigned 8-bit value (R14). -/
abbrev Byte := BitVec 8

/-- A host access descriptor of the `bus` format (R111). -/
abbrev Descriptor := BitVec 64

end Sys2Proof
end

