-- ==== Sys2Proof/Config.lean ====
section
/-! DEFINITION. What the spec leaves open: the parameters of 00_scope.md R9 and the free values (log 1 to 4). No constant here has
a body, so no proof can see its value. -/

namespace Sys2Proof

/-- BUF_BYTES - 1 of the machine that State.reset describes: R9 gives 1 ≤ BUF_BYTES ≤ 1024 (log 3). -/
opaque Config.bufLast : Fin 1024

/-- BLOCK_BASE / 0x4000 of the machine that State.reset describes (R81, log 3). -/
opaque Config.baseIndex : Nat

/-- TICK_NS - 1 of the machine that State.reset describes (R284, log 3; a whole number of nanoseconds, log 30). -/
opaque Config.tickPred : Nat

/-- Whether the pin driver answers the n-th unscripted GPIO request with ERR = 1 (R320: a draw no rule constrains; log 2). -/
opaque Config.driverFails : Nat → Bool

/-- Whether the environment answers the n-th unscripted GPIO read with high (R48: a free input of the step; log 2). -/
opaque Config.misoIsHigh : Nat → Bool

/-- Whether the host moves at the n-th unscripted choice between host and sequencer (R16; log 1). -/
opaque Config.hostMoves : Nat → Bool

/-- The data bits of a buffer entry whose valid bit is 0, by draw count and index (R351: any value; log 4). -/
opaque Config.unspecifiedByte : Nat → Nat → Byte

end Sys2Proof
end

