-- ==== Sys2Proof/Syntax.lean ====
section
/-! DEFINITION. The instructions: one constructor per row of spec/opcode_table.json. The block is no processor (00_scope.md R2); its
instructions are the host's register accesses and the sequencer's micro-operations. -/

namespace Sys2Proof

/-- The 25 `bus` rows, then the 21 `seq` rows, in the table's order.
Fields: `v` is DATA, `k` is OFF[11:2]. -/
inductive Instr where
  | rdCfgCs
  | wrCfgCs (v : Word)
  | rdCfgClk
  | wrCfgClk (v : Word)
  | rdCfgMosi
  | wrCfgMosi (v : Word)
  | rdCfgMiso
  | wrCfgMiso (v : Word)
  | rdCfgSpeed
  | wrCfgSpeed (v : Word)
  | rdLen
  | wrLen (v : Word)
  | rdCmd
  | init
  | xfer
  | cmdReserved (v : Word)
  | rdStatus
  | wrStatus (v : Word)
  | rdHalfNs
  | wrHalfNs (v : Word)
  | rdTxbuf (k : BitVec 10)
  | wrTxbuf (k : BitVec 10) (v : Word)
  | rdRxbuf (k : BitVec 10)
  | wrRxbuf (k : BitVec 10) (v : Word)
  | accessUnmapped (write : Bool) (off : BitVec 16) (data : Word)
  | idle
  | iDirCs
  | iDirClk
  | iDirMosi
  | iDirMiso
  | iCsHi
  | iClkHi
  | xCsLo
  | xLoad
  | xClkLo
  | xMosi
  | xHold1
  | xClkHi
  | xSample
  | xHold2
  | xShift
  | xStore
  | xCsHi
  /-- PHASE codes 0x12 and 0x13: the row of mask 0x1E. -/
  | phaseUnused12 (low : BitVec 1)
  /-- PHASE codes 0x14 to 0x17: the row of mask 0x1C. -/
  | phaseUnused14 (low : BitVec 2)
  /-- PHASE codes 0x18 to 0x1F: the row of mask 0x18. -/
  | phaseUnused18 (low : BitVec 3)
  deriving DecidableEq, Repr

/-- What an instruction is written in (30_encoding.md R110): a 64-bit access descriptor or a 5-bit phase code. -/
inductive CodeWord where
  | bus (d : Descriptor)
  | seq (c : BitVec 5)
  deriving DecidableEq, Repr

/-- Why the decoder refuses a word (R124 step 1, R125). -/
inductive DecodeError where
  /-- RES, bits 62:48, is not 0. -/
  | reservedBitsSet
  /-- A read whose DATA is not 0. -/
  | readWithData
  deriving DecidableEq, Repr

/-- The decoder's answer. -/
inductive Decoded where
  | instr (i : Instr)
  | refuse (e : DecodeError)
  deriving DecidableEq, Repr

end Sys2Proof
end

