-- ==== Sys2Proof/Machine/Codes.lean ====
section
/-! DEFINITION. The numbers the spec assigns: register offsets and their selection (10_state.md R30, 30_encoding.md R112), phase
codes (R120), fault codes (60_exceptions.md R301), CMD words (R113). -/

namespace Sys2Proof.Machine

/-- The nine control registers (R30). -/
inductive CtlReg where
  | cfgCs | cfgClk | cfgMosi | cfgMiso | cfgSpeed | len | cmd | status | halfNs
  deriving DecidableEq, Repr

/-- Their byte offsets in the window (R30). -/
def CtlReg.offset : CtlReg → BitVec 16
  | .cfgCs => 0x000
  | .cfgClk => 0x004
  | .cfgMosi => 0x008
  | .cfgMiso => 0x00C
  | .cfgSpeed => 0x010
  | .len => 0x014
  | .cmd => 0x018
  | .status => 0x01C
  | .halfNs => 0x020

/-- The byte offset of TXBUF[k] (R30, R83). -/
def txOffset (k : BitVec 10) : BitVec 16 := 0x1#4 ++ k ++ 0#2

/-- The byte offset of RXBUF[k] (R30, R83). -/
def rxOffset (k : BitVec 10) : BitVec 16 := 0x2#4 ++ k ++ 0#2

/-- What an offset selects (R112). Whether `k` is below BUF_BYTES is the access's own check. -/
inductive Selected where
  | ctl (r : CtlReg)
  | txbuf (k : BitVec 10)
  | rxbuf (k : BitVec 10)
  | unmapped
  deriving DecidableEq, Repr

/-- The control register at an offset (R30, R83). -/
def ctlAt (off : BitVec 16) : Selected :=
  if off = 0x000 then .ctl .cfgCs
  else if off = 0x004 then .ctl .cfgClk
  else if off = 0x008 then .ctl .cfgMosi
  else if off = 0x00C then .ctl .cfgMiso
  else if off = 0x010 then .ctl .cfgSpeed
  else if off = 0x014 then .ctl .len
  else if off = 0x018 then .ctl .cmd
  else if off = 0x01C then .ctl .status
  else if off = 0x020 then .ctl .halfNs
  else .unmapped

/-- Register selection (R112, R84, R88): a misaligned offset selects nothing. -/
def selectReg (off : BitVec 16) : Selected :=
  if off.extractLsb' 0 2 ≠ 0 then .unmapped
  else if off.extractLsb' 14 2 ≠ 0 then .unmapped
  else if off.extractLsb' 12 2 = 0b01#2 then .txbuf (off.extractLsb' 2 10)
  else if off.extractLsb' 12 2 = 0b10#2 then .rxbuf (off.extractLsb' 2 10)
  else if off.extractLsb' 12 2 = 0b00#2 then ctlAt off
  else .unmapped

/-! PHASE codes (R120). -/

def Phase.idle : BitVec 5 := 0x00
def Phase.iDirCs : BitVec 5 := 0x01
def Phase.iDirClk : BitVec 5 := 0x02
def Phase.iDirMosi : BitVec 5 := 0x03
def Phase.iDirMiso : BitVec 5 := 0x04
def Phase.iCsHi : BitVec 5 := 0x05
def Phase.iClkHi : BitVec 5 := 0x06
def Phase.xCsLo : BitVec 5 := 0x07
def Phase.xLoad : BitVec 5 := 0x08
def Phase.xClkLo : BitVec 5 := 0x09
def Phase.xMosi : BitVec 5 := 0x0A
def Phase.xHold1 : BitVec 5 := 0x0B
def Phase.xClkHi : BitVec 5 := 0x0C
def Phase.xSample : BitVec 5 := 0x0D
def Phase.xHold2 : BitVec 5 := 0x0E
def Phase.xShift : BitVec 5 := 0x0F
def Phase.xStore : BitVec 5 := 0x10
def Phase.xCsHi : BitVec 5 := 0x11

/-- Codes 0x12 to 0x1F are unused (R121). -/
def Phase.unused (c : BitVec 5) : Bool := decide (0x12 ≤ c.toNat)

/-- The faults of the block (R301). -/
inductive FaultCode where
  | concurrent | reservedCmd | driverNotReady | badPins | badSpeed | lenRange | txUnwritten | notInit | driverError
  deriving DecidableEq, Repr

/-- FCODE, STATUS bits 7:4 (R301). -/
def FaultCode.code : FaultCode → BitVec 4
  | .concurrent => 0x1
  | .reservedCmd => 0x2
  | .driverNotReady => 0x3
  | .badPins => 0x4
  | .badSpeed => 0x5
  | .lenRange => 0x6
  | .txUnwritten => 0x7
  | .notInit => 0x8
  | .driverError => 0x9

/-- The two commands (R113). -/
inductive CmdOp where
  | init | xfer
  deriving DecidableEq, Repr

/-- The CMD word (R113): `none` for a reserved word (R114). -/
def cmdOp (v : Word) : Option CmdOp :=
  if v.extractLsb' 2 30 ≠ 0 then none
  else if v.extractLsb' 0 2 = 0b01#2 then some .init
  else if v.extractLsb' 0 2 = 0b10#2 then some .xfer
  else none

/-- The word that spells a command (R113). -/
def CmdOp.word : CmdOp → Word
  | .init => 0x00000001
  | .xfer => 0x00000002

end Sys2Proof.Machine
end

