-- ==== Sys2Proof/Machine/State.lean ====
section
/-! DEFINITION. Everything the spec gives the machine, as plain data (10_state.md, 60_exceptions.md R301, 43_timing.md R284), the
inputs from outside, and the state after reset (70_reset_and_hazards.md R350 to R353). INVENTORY.md lists every field. -/

namespace Sys2Proof.Machine

/-- A line level that can be driven or read (00_scope.md R13, 30_encoding.md R117). -/
inductive Level where
  | low | high
  deriving DecidableEq, Repr

/-- LVL[p]: the level last driven on a pin, or unknown (10_state.md R46). -/
inductive LineLevel where
  | low | high | unknown
  deriving DecidableEq, Repr

/-- The direction of a pin-driver request (R117). -/
inductive Dir where
  | input | output
  deriving DecidableEq, Repr

/-- DIR[p] (R46). -/
inductive LineDir where
  | unconf | input | output
  deriving DecidableEq, Repr

/-- What the pin driver holds for one pin (R46). -/
structure Line where
  dir : LineDir
  lvl : LineLevel
  deriving DecidableEq, Repr

/-- The port: the source's `SpiPort` value (R42, 00_scope.md R15). `speed` is the 32-bit pattern that `s32` reads (R10). -/
structure Port where
  cs : Word
  clk : Word
  mosi : Word
  miso : Word
  speed : Word
  deriving DecidableEq, Repr

/-- The events of the trace (R47). A pin stands as its identifier, a hold in nanoseconds. -/
inductive Event where
  | setDir (pin : Word) (d : Dir)
  | write (pin : Word) (l : Level)
  | read (pin : Word) (l : Level)
  | hold (ns : Nat)
  | fault (c : FaultCode)
  deriving DecidableEq, Repr

/-- One answer to a GPIO request: the pin driver's ERR draw (60_exceptions.md R320) and the level the environment presents
(10_state.md R48), which only a read uses. -/
structure GpioAnswer where
  err : Bool
  lvl : Level
  deriving DecidableEq, Repr

/-- The response to a host access (20_memory.md R92: its data or its bus error). -/
inductive BusAnswer where
  | data (v : Word)
  | done
  | busError
  deriving DecidableEq, Repr

/-- Who can hold a step (00_scope.md R16); the pin driver and the environment act inside the sequencer's step. -/
inductive Agent where
  | host | sequencer
  deriving DecidableEq, Repr

/-- What comes from outside, in order. -/
inductive Input where
  /-- A host access `bits` wide, by its descriptor (30_encoding.md R111, 20_memory.md R89). -/
  | access (bits : Nat) (d : Descriptor)
  /-- The same by the platform's address (20_memory.md R80, R81). -/
  | accessAt (bits : Nat) (write : Bool) (addr : Nat) (data : Word)
  /-- Read STATUS until BUSY = 0 (30_encoding.md R123). -/
  | poll
  /-- RST; `inFlight` when it comes while a GPIO request is outstanding (70_reset_and_hazards.md R350, R352). -/
  | reset (inFlight : Bool)
  /-- The platform sets DRV_READY (10_state.md R45). -/
  | drvReady (b : Bool)
  deriving DecidableEq, Repr

/-- The open parameters of one machine (00_scope.md R9, log 3; TICK_NS whole, log 30), each kept so that every value is legal: BUF_BYTES - 1,
BLOCK_BASE / 0x4000, TICK_NS - 1. -/
structure Params where
  bufLast : Fin 1024
  baseIndex : Nat
  tickPred : Nat
  deriving DecidableEq, Repr

/-- A buffer: its valid entries as (index, byte) pairs with rising index. An entry that is not listed has valid bit 0 and
holds no value (10_state.md R40, R41, 70_reset_and_hazards.md R351, log 4). -/
abbrev Memory := List Host.Cell

/-- The lines: (pin, line) pairs with rising pin, none equal to the power-up line (R46). -/
abbrev Lines := List (Nat × Line)

/-- The state. -/
structure State where
  /-- BUF_BYTES, BLOCK_BASE, TICK_NS: no step changes them. -/
  params : Params
  -- the host-visible registers (R30 to R41)
  cfgCs : Word
  cfgClk : Word
  cfgMosi : Word
  cfgMiso : Word
  cfgSpeed : Word
  len : Word
  busy : Bool
  fault : Bool
  fcode : BitVec 4
  tx : Memory
  rx : Memory
  -- the sequencer's registers (R42, R43)
  phase : BitVec 5
  port : Port
  nlen : Word
  j : BitVec 11
  bitn : BitVec 4
  outsr : Byte
  insr : Byte
  half : BitVec 29
  /-- the down-counter of the half-period timer, in ticks (43_timing.md R284) -/
  timer : Nat
  -- the platform (R45, R46) and the trace (R47), oldest event first
  drvReady : Bool
  lines : Lines
  trace : List Event
  -- model-only records of the spec (R49, R50, 60_exceptions.md R301)
  inited : List Port
  faulted : Bool
  faultPhase : Option (BitVec 5)
  -- the model's own fields (INVENTORY.md): the last response, the inputs to come, the free draws and their counters
  answer : Option BusAnswer
  inbox : List Input
  schedule : List Agent
  turns : Nat
  answers : List GpioAnswer
  draws : Nat
  deriving DecidableEq, Repr

/-- Why the machine stops. -/
inductive Fault where
  /-- The sequencer is at an unused PHASE code (30_encoding.md R121): raised by the three PHASE_UNUSED meanings. Safe: the
  hardware never enters such a code, and nothing is claimed of it. -/
  | unusedPhase (code : BitVec 5)
  deriving DecidableEq, Repr

/-- Why there is no meaning. -/
inductive Refusal where
  /-- An instruction whose meaning is not written, raised by an arm of exec. Safe. -/
  | notModelled (mnemonic : String)
  /-- The host's descriptor spells no access (30_encoding.md R124 step 1): raised by step. Safe: the hardware's bus has no
  such word. -/
  | invalidDescriptor (e : DecodeError)
  deriving DecidableEq, Repr

/-- The line of a pin nothing has touched since power-up (R46). -/
def Line.powerUp : Line := ⟨.unconf, .unknown⟩

/-- The port register latch before any command (R351: unspecified; log 5: zero). -/
def Port.zero : Port := ⟨0, 0, 0, 0, 0⟩

/-- The machine right after reset: the values of R350; the lines at power-up (R46, R353); the values the spec does not give
are named in log 3 (parameters), log 5 (working registers), log 6 (DRV_READY), log 7 (trace), log 8 (timer), log 13
(faultPhase), log 1, 2, 11 and 20 (the model's own fields). -/
def State.reset : State where
  params := ⟨Config.bufLast, Config.baseIndex, Config.tickPred⟩
  cfgCs := 0
  cfgClk := 0
  cfgMosi := 0
  cfgMiso := 0
  cfgSpeed := 0
  len := 0
  busy := false
  fault := false
  fcode := 0
  tx := []
  rx := []
  phase := Phase.idle
  port := Port.zero
  nlen := 0
  j := 0
  bitn := 0
  outsr := 0
  insr := 0
  half := 0
  timer := 0
  drvReady := true
  lines := []
  trace := []
  inited := []
  faulted := false
  faultPhase := none
  answer := none
  inbox := []
  schedule := []
  turns := 0
  answers := []
  draws := 0

end Sys2Proof.Machine
end

