-- ==== Sys2Proof/Machine/Flags.lean ====
section
/-! DEFINITION. The flags: STATUS and its fields BUSY, FAULT, FCODE (10_state.md R38, R53). The block has no condition codes. -/

namespace Sys2Proof.Machine

/-- `RD STATUS`: {0^24, FCODE, 0b00, FAULT, BUSY} (40_host_bus.md R167). -/
def State.status (s : State) : Word :=
  0#24 ++ s.fcode ++ 0#2 ++ BitVec.ofBool s.fault ++ BitVec.ofBool s.busy

/-- BUSY ← 1: an accepted command (R53). -/
def State.setBusy (s : State) : State := { s with busy := true }

/-- BUSY ← 0: the last micro-operation of a command (R53). -/
def State.clearBusy (s : State) : State := { s with busy := false }

/-- The flags at a fault: FCODE keeps the first code, FAULT ← 1, BUSY ← 0, FAULTED ← true (60_exceptions.md R310). -/
def State.faultFlags (c : FaultCode) (s : State) : State :=
  { s with fcode := if s.fault then s.fcode else c.code, fault := true, busy := false, faulted := true }

/-- STATUS ← 0 and FAULTED ← false: block reset (70_reset_and_hazards.md R350). -/
def State.resetFlags (s : State) : State :=
  { s with busy := false, fault := false, fcode := 0, faulted := false }

/-- Whether FCODE names a model fault: a case whose hardware behaviour is unconstrained (60_exceptions.md R300). -/
def FaultCode.isModelFault : FaultCode → Bool
  | .driverNotReady | .badPins | .badSpeed | .notInit => true
  | .concurrent | .reservedCmd | .lenRange | .txUnwritten | .driverError => false

end Sys2Proof.Machine
end

