-- ==== Sys2Proof/Machine/Operands.lean ====
section
/-! DEFINITION. Operand values (30_encoding.md R118, R119), the port, the parameters, levels and bits (00_scope.md R13), the
half-period (43_timing.md R280) and the GPIO request and response (30_encoding.md R115, R116). -/

namespace Sys2Proof.Machine

/-! ## Parameters (00_scope.md R9) -/

/-- BUF_BYTES, 1 to 1024. -/
def Params.bufBytes (p : Params) : Nat := p.bufLast.val + 1

/-- BLOCK_BASE, a multiple of 0x4000 (20_memory.md R81). -/
def Params.blockBase (p : Params) : Nat := p.baseIndex * 0x4000

/-- TICK_NS. That it is a whole number of nanoseconds, at least 1, is the model's choice: R9 and R284 give it no type and no range
(DESIGN CHOICE, log 30). -/
def Params.tickNs (p : Params) : Nat := p.tickPred + 1

/-- BUF_BYTES of this machine. -/
def State.bufBytes (s : State) : Nat := s.params.bufBytes

/-- The offset in the block's window of a platform address: its low 14 bits (R81); `none` for another block's address. -/
def Params.offsetOf (p : Params) (addr : Nat) : Option (BitVec 16) :=
  if addr / 0x4000 = p.baseIndex then some (BitVec.ofNat 16 (addr % 0x4000)) else none

/-! ## Numbers (R10, R118) -/

/-- `s32(v)`: a 32-bit pattern as a signed integer (R10). -/
def s32 (v : Word) : Int := v.toInt

/-- `zext_32` of a byte (R10). -/
def zext32 (b : Byte) : Word := b.setWidth 32

/-- Bits [7:0] of the write data (R118). -/
def lowByte (v : Word) : Byte := v.setWidth 8

/-- `500000000 div s` with truncation toward zero (R11, R280), in nanoseconds. -/
def halfPeriod (speed : Word) : Nat := (Int.tdiv 500000000 (s32 speed)).toNat

/-! ## The port (10_state.md R42) -/

/-- The port that CFG_* hold. -/
def State.cfgPort (s : State) : Port := ⟨s.cfgCs, s.cfgClk, s.cfgMosi, s.cfgMiso, s.cfgSpeed⟩

/-- The four pins are pairwise distinct (00_scope.md R8). -/
def Port.distinct (p : Port) : Bool :=
  decide (p.cs ≠ p.clk) && decide (p.cs ≠ p.mosi) && decide (p.cs ≠ p.miso) && decide (p.clk ≠ p.mosi) &&
    decide (p.clk ≠ p.miso) && decide (p.mosi ≠ p.miso)

/-- The speed is strictly positive (R35). -/
def Port.speedOk (p : Port) : Bool := decide (0 < s32 p.speed)

/-! ## Levels, directions and bits (00_scope.md R13, 30_encoding.md R117) -/

/-- `lvl(b)`: high for 1, low for 0. -/
def lvl (b : Byte) : Level := if b = 0 then .low else .high

/-- `bit(l)`: 1 for high, 0 for low. -/
def bit : Level → Byte
  | .low => 0
  | .high => 1

/-- The level as the pin driver keeps it. -/
def Level.line : Level → LineLevel
  | .low => .low
  | .high => .high

/-- The direction as the pin driver keeps it. -/
def Dir.line : Dir → LineDir
  | .input => .input
  | .output => .output

/-- The outbound bit `(OUTSR & 0x80) >> 7` (R119, 42_transfer.md R234). -/
def outBit (o : Byte) : Byte := (o &&& 0x80#8) >>> 7

/-- `(OUTSR << 1) mod 2^8` (42_transfer.md R239). -/
def shiftOut (o : Byte) : Byte := o <<< 1

/-- `((INSR << 1) | bit(l)) mod 2^8` (42_transfer.md R237). -/
def shiftIn (i : Byte) (l : Level) : Byte := (i <<< 1) ||| bit l

/-! ## The GPIO request and response (30_encoding.md R115, R116) -/

/-- KIND. -/
inductive GpioKind where
  | setDir | write | read
  deriving DecidableEq, Repr

/-- A pin-driver request {KIND, PIN, VAL}. -/
structure GpioRequest where
  kind : GpioKind
  pin : Word
  val : Bool
  deriving DecidableEq, Repr

/-- A pin-driver response {ERR, LVL}. -/
structure GpioResponse where
  err : Bool
  lvl : Bool
  deriving DecidableEq, Repr

/-- The KIND field (R115). -/
def GpioKind.code : GpioKind → BitVec 2
  | .setDir => 0b00
  | .write => 0b01
  | .read => 0b10

/-- The 34 bits {KIND, PIN} (R115); VAL is carried beside them. -/
def GpioRequest.bits (r : GpioRequest) : BitVec 34 := r.kind.code ++ r.pin

/-- The request that 34 bits and VAL spell; KIND 0b11 is never issued (R115). -/
def GpioRequest.ofBits (b : BitVec 34) (val : Bool) : Option GpioRequest :=
  if b.extractLsb' 32 2 = 0b00#2 then some ⟨.setDir, b.extractLsb' 0 32, val⟩
  else if b.extractLsb' 32 2 = 0b01#2 then some ⟨.write, b.extractLsb' 0 32, val⟩
  else if b.extractLsb' 32 2 = 0b10#2 then some ⟨.read, b.extractLsb' 0 32, val⟩
  else none

/-- The two bits {ERR, LVL} (R116). -/
def GpioResponse.bits (r : GpioResponse) : BitVec 2 := BitVec.ofBool r.err ++ BitVec.ofBool r.lvl

/-- VAL of a direction request: 1 = output (R117). -/
def Dir.val : Dir → Bool
  | .input => false
  | .output => true

/-- VAL of a level: 1 = high (R117). -/
def Level.val : Level → Bool
  | .low => false
  | .high => true

/-- The direction that VAL or a request names (R117). -/
def Dir.ofVal (b : Bool) : Dir := if b then .output else .input

/-- The level that VAL or LVL names (R117). -/
def Level.ofVal (b : Bool) : Level := if b then .high else .low

/-- `GpioSetDir(pin, d)` (00_scope.md R12). -/
def gpioSetDir (pin : Word) (d : Dir) : GpioRequest := ⟨.setDir, pin, d.val⟩

/-- `GpioWrite(pin, l)` (00_scope.md R12). -/
def gpioWrite (pin : Word) (l : Level) : GpioRequest := ⟨.write, pin, l.val⟩

/-- `GpioRead(pin)` (00_scope.md R12); VAL is 0 (R115). -/
def gpioRead (pin : Word) : GpioRequest := ⟨.read, pin, false⟩

/-- The response an answer gives: LVL is the level read for READ with ERR = 0, and otherwise 0 (R116). -/
def respond (r : GpioRequest) (a : GpioAnswer) : GpioResponse :=
  ⟨a.err, decide (r.kind = .read) && !a.err && a.lvl.val⟩

/-- The request of the micro-operation at PHASE, if it issues one (30_encoding.md R120). -/
def State.request (s : State) : Option GpioRequest :=
  if s.phase = Phase.iDirCs then some (gpioSetDir s.port.cs .output)
  else if s.phase = Phase.iDirClk then some (gpioSetDir s.port.clk .output)
  else if s.phase = Phase.iDirMosi then some (gpioSetDir s.port.mosi .output)
  else if s.phase = Phase.iDirMiso then some (gpioSetDir s.port.miso .input)
  else if s.phase = Phase.iCsHi then some (gpioWrite s.port.cs .high)
  else if s.phase = Phase.iClkHi then some (gpioWrite s.port.clk .high)
  else if s.phase = Phase.xCsLo then some (gpioWrite s.port.cs .low)
  else if s.phase = Phase.xClkLo then some (gpioWrite s.port.clk .low)
  else if s.phase = Phase.xMosi then some (gpioWrite s.port.mosi (lvl (outBit s.outsr)))
  else if s.phase = Phase.xClkHi then some (gpioWrite s.port.clk .high)
  else if s.phase = Phase.xSample then some (gpioRead s.port.miso)
  else if s.phase = Phase.xCsHi then some (gpioWrite s.port.cs .high)
  else none

end Sys2Proof.Machine
end

