-- ==== Sys2Proof/Machine/Ops.lean ====
section
/-! DEFINITION. The named operations over the state: buffers, lines and trace, GPIO requests, the timer, the response to the host, entering
the fault state (60_exceptions.md R310), block reset (70_reset_and_hazards.md R350) and the issue of a command (40_host_bus.md R166). -/

namespace Sys2Proof.Machine

/-! ## Sorted lists of (key, value) pairs -/

/-- The value at a key. -/
def assocGet {α : Type} : List (Nat × α) → Nat → Option α
  | [], _ => none
  | (k, v) :: rest, a => if k = a then some v else assocGet rest a

/-- Set the value at a key, keeping the keys rising. -/
def assocSet {α : Type} : List (Nat × α) → Nat → α → List (Nat × α)
  | [], a, v => [(a, v)]
  | (k, w) :: rest, a, v =>
    if a < k then (a, v) :: (k, w) :: rest
    else if a = k then (a, v) :: rest
    else (k, w) :: assocSet rest a v

/-- Remove a key. -/
def assocErase {α : Type} : List (Nat × α) → Nat → List (Nat × α)
  | [], _ => []
  | (k, w) :: rest, a => if k = a then rest else (k, w) :: assocErase rest a

/-- Every key is above `b`, and the keys rise. -/
def assocAbove {α : Type} : Nat → List (Nat × α) → Bool
  | _, [] => true
  | b, (k, _) :: rest => decide (b < k) && assocAbove k rest

/-- The keys rise strictly. -/
def assocSorted {α : Type} : List (Nat × α) → Bool
  | [] => true
  | (k, _) :: rest => assocAbove k rest

/-! ## The buffers (10_state.md R40, R41) -/

/-- What an entry that is not listed reads as: no value, its valid bit is 0 (R351, log 4). -/
def Memory.unlisted : Option Byte := none

/-- The byte of an entry whose valid bit is 1. -/
def Memory.read (m : Memory) (k : Nat) : Option Byte :=
  match assocGet m k with
  | some b => some b
  | none => Memory.unlisted

/-- The valid bit TXV[k] or RXV[k]. -/
def Memory.valid (m : Memory) (k : Nat) : Bool := (Memory.read m k).isSome

/-- Store a byte and set its valid bit. -/
def Memory.store (m : Memory) (k : Nat) (b : Byte) : Memory := assocSet m k b

/-- The canonical form: rising indexes. No entry can equal what an unlisted index reads as, which is no value. -/
def Memory.wf (m : Memory) : Bool := assocSorted m

/-- The valid bit is 1 for every k < n (40_host_bus.md R166). -/
def Memory.validBelow (m : Memory) : Nat → Bool
  | 0 => true
  | n + 1 => Memory.valid m n && Memory.validBelow m n

/-! ## The lines (10_state.md R46) -/

/-- The line of a pin. -/
def Lines.read (ls : Lines) (pin : Word) : Line := (assocGet ls pin.toNat).getD Line.powerUp

/-- Set the line of a pin; a line as at power-up is not listed. -/
def Lines.store (ls : Lines) (pin : Word) (l : Line) : Lines :=
  if l = Line.powerUp then assocErase ls pin.toNat else assocSet ls pin.toNat l

/-- The canonical form: rising pins of 32 bits, none at its power-up line. -/
def Lines.wf (ls : Lines) : Bool :=
  assocSorted ls && ls.all (fun e => decide (e.2 ≠ Line.powerUp) && decide (e.1 < 4294967296))

/-- `DIR[p]`. -/
def State.dir (s : State) (pin : Word) : LineDir := (s.lines.read pin).dir

/-- `LVL[p]`. -/
def State.level (s : State) (pin : Word) : LineLevel := (s.lines.read pin).lvl

/-- `DIR[p] <- d`, the level unchanged (R46). -/
def State.setDir (pin : Word) (d : LineDir) (s : State) : State :=
  { s with lines := s.lines.store pin ⟨d, s.level pin⟩ }

/-- `LVL[p] <- l`, the direction unchanged (R46). -/
def State.setLevel (pin : Word) (l : LineLevel) (s : State) : State :=
  { s with lines := s.lines.store pin ⟨s.dir pin, l⟩ }

/-! ## Trace, phase, response -/

/-- Append an event (R47): the trace is never shortened. -/
def State.record (e : Event) (s : State) : State := { s with trace := s.trace ++ [e] }

/-- `phase <- p` (00_scope.md R12). -/
def State.goto (p : BitVec 5) (s : State) : State := { s with phase := p }

/-- Answer the host access. -/
def State.reply (a : BusAnswer) (s : State) : State := { s with answer := some a }

/-- `busError()`: an error response, and no state changes (40_host_bus.md R150, log 11). -/
def State.busError (s : State) : State := s.reply .busError

/-! ## Faults (60_exceptions.md) -/

/-- `raise Fault(code)` (R310): the flags, phase ← IDLE, the event `Fault(code)`; everything else stays. -/
def State.raiseFault (c : FaultCode) (s : State) : State :=
  ((s.faultFlags c).goto Phase.idle).record (.fault c)

/-- DRIVER_ERROR (R320), with the PHASE at which it occurred (R301, log 13). -/
def State.driverError (s : State) : State :=
  State.raiseFault .driverError { s with faultPhase := some s.phase }

/-! ## GPIO requests (30_encoding.md R115, 20_memory.md R93) -/

/-- The n-th answer of the pin driver and the environment that no list gives: a free draw (R48, R320, log 2). -/
def freeAnswer (n : Nat) : GpioAnswer := ⟨Config.driverFails n, if Config.misoIsHigh n then .high else .low⟩

/-- The answer that the request after the next `i` ones gets. -/
def State.answerAt (s : State) (i : Nat) : GpioAnswer := (s.answers[i]?).getD (freeAnswer (s.draws + i))

/-- The answer to the next request. -/
def State.nextAnswer (s : State) : GpioAnswer := s.answerAt 0

/-- One answer is used up. -/
def State.takeAnswer (s : State) : State := { s with answers := s.answers.tail, draws := s.draws + 1 }

/-- What an acknowledged request does at the pin driver (R46), and its event (R47). -/
def State.serve (r : GpioRequest) (resp : GpioResponse) (s : State) : State :=
  match r.kind with
  | .setDir => (s.setDir r.pin (Dir.ofVal r.val).line).record (.setDir r.pin (Dir.ofVal r.val))
  | .write => (s.setLevel r.pin (Level.ofVal r.val).line).record (.write r.pin (Level.ofVal r.val))
  | .read => s.record (.read r.pin (Level.ofVal resp.lvl))

/-- The request reaches the pin driver and is answered: acknowledged, or failed with the pin's level unknown (R46, R320). A
failed request has no event of its own (log 12). -/
def State.drive (r : GpioRequest) (s : State) : State :=
  if s.nextAnswer.err then s.takeAnswer.setLevel r.pin .unknown
  else s.takeAnswer.serve r (respond r s.nextAnswer)

/-- One GPIO micro-operation: on acknowledgement go on with `onAck`, on ERR = 1 enter DRIVER_ERROR (R320). -/
def State.gpio (r : GpioRequest) (onAck : GpioResponse → State → State) (s : State) : State :=
  if s.nextAnswer.err then (s.drive r).driverError else onAck (respond r s.nextAnswer) (s.drive r)

/-! ## The half-period timer (43_timing.md) -/

/-- The load value: `ceil(h / TICK_NS) + 1` ticks for h > 0, and 0 for h = 0 (R284). -/
def holdTicks (p : Params) (h : Nat) : Nat :=
  if h = 0 then 0 else (h + p.tickNs - 1) / p.tickNs + 1

/-- The down-counter is loaded at the start of a Hold (R284). -/
def State.timerLoad (s : State) : State := { s with timer := holdTicks s.params s.half.toNat }

/-- The Hold completes when the count reaches 0 (R284, log 8). -/
def State.timerExpire (s : State) : State := { s with timer := 0 }

/-- `Hold(HALF)` and its event (R283): the only lasting effect is the next phase. -/
def State.holdHalf (next : BitVec 5) (s : State) : State :=
  (s.timerLoad.timerExpire.record (.hold s.half.toNat)).goto next

/-! ## Host accesses (40_host_bus.md R150) -/

/-- A read of a register that returns `v`: bus error while FAULT = 1 (R150 step 2, R151), and where the register's own rule
says so (`ok` false). -/
def State.hostRead (ok : Bool) (v : Word) (s : State) : State :=
  if s.fault then s.busError else if ok then s.reply (.data v) else s.busError

/-- A write: bus error while FAULT = 1 (step 2), CONCURRENT while BUSY = 1 (step 4, R302), else its effect `f` (step 5). A
write that raises a fault is answered as done (log 10). -/
def State.hostWrite (f : State → State) (s : State) : State :=
  if s.fault then s.busError
  else if s.busy then (s.raiseFault .concurrent).reply .done
  else (f s).reply .done

/-! ## Commands (40_host_bus.md R166, 60_exceptions.md R311) -/

/-- The checks of both commands, in order: DRIVER_NOT_READY, BAD_PINS, BAD_SPEED (R304 to R306). -/
def State.portFault (s : State) : Option FaultCode :=
  if s.drvReady = false then some .driverNotReady
  else if s.cfgPort.distinct = false then some .badPins
  else if s.cfgPort.speedOk = false then some .badSpeed
  else none

/-- The port is in INITED and its pins have the directions INIT gave them (R309). -/
def State.initialized (s : State) : Bool :=
  decide (s.cfgPort ∈ s.inited) && decide (s.dir s.cfgCs = .output) && decide (s.dir s.cfgClk = .output) &&
    decide (s.dir s.cfgMosi = .output) && decide (s.dir s.cfgMiso = .input)

/-- The checks of XFER alone, in order: LEN_RANGE, TX_UNWRITTEN, NOT_INIT (R307 to R309). -/
def State.transferFault (s : State) : Option FaultCode :=
  if s.bufBytes < s.len.toNat then some .lenRange
  else if Memory.validBelow s.tx s.len.toNat = false then some .txUnwritten
  else if s.initialized = false then some .notInit
  else none

/-- The first fault of a CMD write with BUSY = 0 and FAULT = 0, in the order of R311. -/
def State.commandFault (v : Word) (s : State) : Option FaultCode :=
  match cmdOp v with
  | none => some .reservedCmd
  | some .init => s.portFault
  | some .xfer =>
    match s.portFault with
    | some c => some c
    | none => s.transferFault

/-- INIT acceptance (41_initialize.md R200). -/
def State.acceptInit (s : State) : State :=
  State.goto Phase.iDirCs (State.setBusy { s with port := s.cfgPort })

/-- XFER acceptance (42_transfer.md R230): every RXV[k] ← 0. -/
def State.acceptXfer (s : State) : State :=
  State.goto Phase.xCsLo (State.setBusy
    { s with port := s.cfgPort, nlen := s.len, half := BitVec.ofNat 29 (halfPeriod s.cfgSpeed), rx := [], j := 0 })

/-- A CMD write with BUSY = 0 and FAULT = 0: the first fault of its checks, or acceptance (R166). -/
def State.command (v : Word) (s : State) : State :=
  match s.commandFault v with
  | some c => s.raiseFault c
  | none => if cmdOp v = some .init then s.acceptInit else s.acceptXfer

/-- `WR CMD, v` (R166). -/
def State.writeCmd (v : Word) (s : State) : State := s.hostWrite (State.command v)

/-! ## Block reset (70_reset_and_hazards.md R350 to R353) -/

/-- The block's state at RST (R350). The lines, DRV_READY and the trace stay (R353, R47). What R351 leaves unspecified takes
the values of State.reset (log 5). -/
def State.blockReset (s : State) : State :=
  State.resetFlags { s with
    cfgCs := 0, cfgClk := 0, cfgMosi := 0, cfgMiso := 0, cfgSpeed := 0, len := 0,
    tx := [], rx := [], phase := Phase.idle, inited := [], faultPhase := none,
    port := Port.zero, nlen := 0, j := 0, bitn := 0, outsr := 0, insr := 0, half := 0, timer := 0 }

/-- RST while BUSY = 1 and a GPIO request is outstanding: the request completes or fails at the driver and its result is
discarded (R352, log 16). -/
def State.resetInFlight (s : State) : State :=
  match s.busy, s.request with
  | true, some r => (s.drive r).blockReset
  | _, _ => s.blockReset

end Sys2Proof.Machine
end

