-- ==== Sys2Proof/Machine/HostBus.lean ====
section
/-! DEFINITION. The meanings of the 25 host accesses (40_host_bus.md R150 to R175, 41_initialize.md R200, 42_transfer.md R230,
60_exceptions.md R303). Every access completes: a bus error is an answer, not a stop (R315), and a fault enters the fault
state (R310). -/

namespace Sys2Proof.Machine

/-! ## Port registers and LEN (R153 to R164) -/

/-- `RD CFG_CS` (R153). -/
def execRdCfgCs (s : State) : Host.Outcome State Fault Refusal := .next (s.hostRead true s.cfgCs)

/-- `WR CFG_CS, v` (R154). -/
def execWrCfgCs (v : Word) (s : State) : Host.Outcome State Fault Refusal :=
  .next (s.hostWrite fun t => { t with cfgCs := v })

/-- `RD CFG_CLK` (R155). -/
def execRdCfgClk (s : State) : Host.Outcome State Fault Refusal := .next (s.hostRead true s.cfgClk)

/-- `WR CFG_CLK, v` (R156). -/
def execWrCfgClk (v : Word) (s : State) : Host.Outcome State Fault Refusal :=
  .next (s.hostWrite fun t => { t with cfgClk := v })

/-- `RD CFG_MOSI` (R157). -/
def execRdCfgMosi (s : State) : Host.Outcome State Fault Refusal := .next (s.hostRead true s.cfgMosi)

/-- `WR CFG_MOSI, v` (R158). -/
def execWrCfgMosi (v : Word) (s : State) : Host.Outcome State Fault Refusal :=
  .next (s.hostWrite fun t => { t with cfgMosi := v })

/-- `RD CFG_MISO` (R159). -/
def execRdCfgMiso (s : State) : Host.Outcome State Fault Refusal := .next (s.hostRead true s.cfgMiso)

/-- `WR CFG_MISO, v` (R160). -/
def execWrCfgMiso (v : Word) (s : State) : Host.Outcome State Fault Refusal :=
  .next (s.hostWrite fun t => { t with cfgMiso := v })

/-- `RD CFG_SPEED`, the raw pattern (R161). -/
def execRdCfgSpeed (s : State) : Host.Outcome State Fault Refusal := .next (s.hostRead true s.cfgSpeed)

/-- `WR CFG_SPEED, v`: any pattern is stored (R162). -/
def execWrCfgSpeed (v : Word) (s : State) : Host.Outcome State Fault Refusal :=
  .next (s.hostWrite fun t => { t with cfgSpeed := v })

/-- `RD LEN` (R163). -/
def execRdLen (s : State) : Host.Outcome State Fault Refusal := .next (s.hostRead true s.len)

/-- `WR LEN, v`: any value is stored (R164). -/
def execWrLen (v : Word) (s : State) : Host.Outcome State Fault Refusal :=
  .next (s.hostWrite fun t => { t with len := v })

/-! ## Command register (R165, R166) -/

/-- `RD CMD`: bus error, CMD is write-only (R165). -/
def execRdCmd (s : State) : Host.Outcome State Fault Refusal := .next s.busError

/-- `WR CMD, 0x00000001`: INIT (R166, R200). -/
def execInit (s : State) : Host.Outcome State Fault Refusal := .next (s.writeCmd CmdOp.init.word)

/-- `WR CMD, 0x00000002`: XFER (R166, R230). -/
def execXfer (s : State) : Host.Outcome State Fault Refusal := .next (s.writeCmd CmdOp.xfer.word)

/-- `WR CMD, v` with any other word: RESERVED_CMD (R166, R303). -/
def execCmdReserved (v : Word) (s : State) : Host.Outcome State Fault Refusal := .next (s.writeCmd v)

/-! ## Status and derived registers (R167 to R170) -/

/-- `RD STATUS`: answered whatever BUSY and FAULT are (R167, R151). -/
def execRdStatus (s : State) : Host.Outcome State Fault Refusal := .next (s.reply (.data s.status))

/-- `WR STATUS, v`: bus error, read-only (R168). -/
def execWrStatus (_v : Word) (s : State) : Host.Outcome State Fault Refusal := .next s.busError

/-- `RD HALF_NS`: bus error for a speed ≤ 0, else the half-period (R169). -/
def execRdHalfNs (s : State) : Host.Outcome State Fault Refusal :=
  .next (s.hostRead s.cfgPort.speedOk (BitVec.ofNat 32 (halfPeriod s.cfgSpeed)))

/-- `WR HALF_NS, v`: bus error, read-only (R170). -/
def execWrHalfNs (_v : Word) (s : State) : Host.Outcome State Fault Refusal := .next s.busError

/-! ## Buffers (R171 to R174); an index not below BUF_BYTES is unmapped (R112, R175) -/

/-- `RD TXBUF[k]`: bus error when TXV[k] = 0 (R171). -/
def execRdTxbuf (k : BitVec 10) (s : State) : Host.Outcome State Fault Refusal :=
  .next (s.hostRead (decide (k.toNat < s.bufBytes) && s.tx.valid k.toNat) (zext32 ((s.tx.read k.toNat).getD 0)))

/-- `WR TXBUF[k], v`: TX[k] ← v[7:0], TXV[k] ← 1 (R172). -/
def execWrTxbuf (k : BitVec 10) (v : Word) (s : State) : Host.Outcome State Fault Refusal :=
  .next (if k.toNat < s.bufBytes then s.hostWrite fun t => { t with tx := t.tx.store k.toNat (lowByte v) } else s.busError)

/-- `RD RXBUF[k]`: bus error when BUSY = 1 or RXV[k] = 0 (R173). -/
def execRdRxbuf (k : BitVec 10) (s : State) : Host.Outcome State Fault Refusal :=
  .next (s.hostRead (decide (k.toNat < s.bufBytes) && !s.busy && s.rx.valid k.toNat) (zext32 ((s.rx.read k.toNat).getD 0)))

/-- `WR RXBUF[k], v`: bus error, read-only, also while BUSY = 1 (R174). -/
def execWrRxbuf (_k : BitVec 10) (_v : Word) (s : State) : Host.Outcome State Fault Refusal := .next s.busError

/-- An access to an unmapped or misaligned offset, or of another width than 32 bits: bus error (R175). -/
def execAccessUnmapped (_write : Bool) (_off : BitVec 16) (_data : Word) (s : State) : Host.Outcome State Fault Refusal :=
  .next s.busError

end Sys2Proof.Machine
end

