-- ==== Sys2Proof/Machine/Initialize.lean ====
section
/-! DEFINITION. The meanings of the six micro-operations of INIT (41_initialize.md R201 to R206). Each ends in a next state: on a driver
error, the fault state of DRIVER_ERROR (60_exceptions.md R320). -/

namespace Sys2Proof.Machine

/-- I_DIR_CS (R201). -/
def execIDirCs (s : State) : Host.Outcome State Fault Refusal :=
  .next (s.gpio (gpioSetDir s.port.cs .output) fun _ t => t.goto Phase.iDirClk)

/-- I_DIR_CLK (R202). -/
def execIDirClk (s : State) : Host.Outcome State Fault Refusal :=
  .next (s.gpio (gpioSetDir s.port.clk .output) fun _ t => t.goto Phase.iDirMosi)

/-- I_DIR_MOSI (R203): the level of mosi is not written. -/
def execIDirMosi (s : State) : Host.Outcome State Fault Refusal :=
  .next (s.gpio (gpioSetDir s.port.mosi .output) fun _ t => t.goto Phase.iDirMiso)

/-- I_DIR_MISO (R204). -/
def execIDirMiso (s : State) : Host.Outcome State Fault Refusal :=
  .next (s.gpio (gpioSetDir s.port.miso .input) fun _ t => t.goto Phase.iCsHi)

/-- I_CS_HI (R205). -/
def execICsHi (s : State) : Host.Outcome State Fault Refusal :=
  .next (s.gpio (gpioWrite s.port.cs .high) fun _ t => t.goto Phase.iClkHi)

/-- `INITED ∪ {PORT}` as a list without repeats (R206, log 22). -/
def State.addInited (s : State) : State :=
  { s with inited := if s.port ∈ s.inited then s.inited else s.inited ++ [s.port] }

/-- I_CLK_HI, the last micro-operation of INIT (R206). -/
def execIClkHi (s : State) : Host.Outcome State Fault Refusal :=
  .next (s.gpio (gpioWrite s.port.clk .high) fun _ t => (t.addInited.clearBusy).goto Phase.idle)

end Sys2Proof.Machine
end

