-- ==== Sys2Proof/Machine/Sequencer.lean ====
section
/-! DEFINITION. The meanings of the `seq` rows that are no micro-operation: IDLE (41_initialize.md R200) and the unused PHASE codes
(30_encoding.md R121). -/

namespace Sys2Proof.Machine

/-- IDLE: "the sequencer has no step"; nothing changes (R200, log 14). -/
def execIdle (s : State) : Host.Outcome State Fault Refusal := .next s

/-- PHASE 0x12 and 0x13: "must fault, never step" (R121, log 15). -/
def execPhaseUnused12 (low : BitVec 1) (_s : State) : Host.Outcome State Fault Refusal := .fault (.unusedPhase (9#4 ++ low))

/-- PHASE 0x14 to 0x17 (R121, log 15). -/
def execPhaseUnused14 (low : BitVec 2) (_s : State) : Host.Outcome State Fault Refusal := .fault (.unusedPhase (5#3 ++ low))

/-- PHASE 0x18 to 0x1F (R121, log 15). -/
def execPhaseUnused18 (low : BitVec 3) (_s : State) : Host.Outcome State Fault Refusal := .fault (.unusedPhase (3#2 ++ low))

end Sys2Proof.Machine
end

