-- ==== Sys2Proof/Machine/Transfer.lean ====
section
/-! DEFINITION. The meanings of the eleven micro-operations of XFER (42_transfer.md R231 to R241) and its Holds (43_timing.md R283). -/

namespace Sys2Proof.Machine

/-- X_CS_LO: assert chip-select; an empty transfer goes on to X_CS_HI (R231). -/
def execXCsLo (s : State) : Host.Outcome State Fault Refusal :=
  .next (s.gpio (gpioWrite s.port.cs .low) fun _ t => t.goto (if t.nlen = 0 then Phase.xCsHi else Phase.xLoad))

/-- `TX[J]`; when TXV[J] = 0, which no run reaches (R232), its data bits are unspecified: a free value (R351, log 4). -/
def State.txByte (s : State) : Byte := (s.tx.read s.j.toNat).getD (Config.unspecifiedByte s.draws s.j.toNat)

/-- X_LOAD: OUTSR ← TX[J], INSR ← 0, BITN ← 0 (R232). -/
def execXLoad (s : State) : Host.Outcome State Fault Refusal :=
  .next (State.goto Phase.xClkLo { s with outsr := s.txByte, insr := 0, bitn := 0 })

/-- X_CLK_LO: the falling edge (R233). -/
def execXClkLo (s : State) : Host.Outcome State Fault Refusal :=
  .next (s.gpio (gpioWrite s.port.clk .low) fun _ t => t.goto Phase.xMosi)

/-- X_MOSI: drive the most significant bit of OUTSR (R234). -/
def execXMosi (s : State) : Host.Outcome State Fault Refusal :=
  .next (s.gpio (gpioWrite s.port.mosi (lvl (outBit s.outsr))) fun _ t => t.goto Phase.xHold1)

/-- X_HOLD1: the low phase (R235). -/
def execXHold1 (s : State) : Host.Outcome State Fault Refusal := .next (s.holdHalf Phase.xClkHi)

/-- X_CLK_HI: the rising edge (R236). -/
def execXClkHi (s : State) : Host.Outcome State Fault Refusal :=
  .next (s.gpio (gpioWrite s.port.clk .high) fun _ t => t.goto Phase.xSample)

/-- X_SAMPLE: read miso and shift it into INSR (R237). -/
def execXSample (s : State) : Host.Outcome State Fault Refusal :=
  .next (s.gpio (gpioRead s.port.miso) fun resp t =>
    State.goto Phase.xHold2 { t with insr := shiftIn t.insr (Level.ofVal resp.lvl) })

/-- X_HOLD2: the high phase (R238). -/
def execXHold2 (s : State) : Host.Outcome State Fault Refusal := .next (s.holdHalf Phase.xShift)

/-- X_SHIFT: expose the next bit and count the one sent (R239). -/
def execXShift (s : State) : Host.Outcome State Fault Refusal :=
  .next (State.goto (if s.bitn + 1 = 8 then Phase.xStore else Phase.xClkLo)
    { s with outsr := shiftOut s.outsr, bitn := s.bitn + 1 })

/-- X_STORE: RX[J] ← INSR, RXV[J] ← 1, J ← J + 1 (R240). -/
def execXStore (s : State) : Host.Outcome State Fault Refusal :=
  .next (State.goto (if (s.j + 1).toNat = s.nlen.toNat then Phase.xCsHi else Phase.xLoad)
    { s with rx := s.rx.store s.j.toNat s.insr, j := s.j + 1 })

/-- X_CS_HI: deassert chip-select, the last micro-operation of XFER (R241). -/
def execXCsHi (s : State) : Host.Outcome State Fault Refusal :=
  .next (s.gpio (gpioWrite s.port.cs .high) fun _ t => t.clearBusy.goto Phase.idle)

end Sys2Proof.Machine
end

