-- ==== Sys2Proof/Machine/Dispatch.lean ====
section
/-! DEFINITION. One arm per constructor of Instr: what each instruction does to the state. -/

namespace Sys2Proof.Machine

def exec (i : Instr) (s : State) : Host.Outcome State Fault Refusal :=
  match i with
  | .rdCfgCs => Sys2Proof.Machine.execRdCfgCs s
  | .wrCfgCs v => Sys2Proof.Machine.execWrCfgCs v s
  | .rdCfgClk => Sys2Proof.Machine.execRdCfgClk s
  | .wrCfgClk v => Sys2Proof.Machine.execWrCfgClk v s
  | .rdCfgMosi => Sys2Proof.Machine.execRdCfgMosi s
  | .wrCfgMosi v => Sys2Proof.Machine.execWrCfgMosi v s
  | .rdCfgMiso => Sys2Proof.Machine.execRdCfgMiso s
  | .wrCfgMiso v => Sys2Proof.Machine.execWrCfgMiso v s
  | .rdCfgSpeed => Sys2Proof.Machine.execRdCfgSpeed s
  | .wrCfgSpeed v => Sys2Proof.Machine.execWrCfgSpeed v s
  | .rdLen => Sys2Proof.Machine.execRdLen s
  | .wrLen v => Sys2Proof.Machine.execWrLen v s
  | .rdCmd => Sys2Proof.Machine.execRdCmd s
  | .init => Sys2Proof.Machine.execInit s
  | .xfer => Sys2Proof.Machine.execXfer s
  | .cmdReserved v => Sys2Proof.Machine.execCmdReserved v s
  | .rdStatus => Sys2Proof.Machine.execRdStatus s
  | .wrStatus v => Sys2Proof.Machine.execWrStatus v s
  | .rdHalfNs => Sys2Proof.Machine.execRdHalfNs s
  | .wrHalfNs v => Sys2Proof.Machine.execWrHalfNs v s
  | .rdTxbuf k => Sys2Proof.Machine.execRdTxbuf k s
  | .wrTxbuf k v => Sys2Proof.Machine.execWrTxbuf k v s
  | .rdRxbuf k => Sys2Proof.Machine.execRdRxbuf k s
  | .wrRxbuf k v => Sys2Proof.Machine.execWrRxbuf k v s
  | .accessUnmapped write off data => Sys2Proof.Machine.execAccessUnmapped write off data s
  | .idle => Sys2Proof.Machine.execIdle s
  | .iDirCs => Sys2Proof.Machine.execIDirCs s
  | .iDirClk => Sys2Proof.Machine.execIDirClk s
  | .iDirMosi => Sys2Proof.Machine.execIDirMosi s
  | .iDirMiso => Sys2Proof.Machine.execIDirMiso s
  | .iCsHi => Sys2Proof.Machine.execICsHi s
  | .iClkHi => Sys2Proof.Machine.execIClkHi s
  | .xCsLo => Sys2Proof.Machine.execXCsLo s
  | .xLoad => Sys2Proof.Machine.execXLoad s
  | .xClkLo => Sys2Proof.Machine.execXClkLo s
  | .xMosi => Sys2Proof.Machine.execXMosi s
  | .xHold1 => Sys2Proof.Machine.execXHold1 s
  | .xClkHi => Sys2Proof.Machine.execXClkHi s
  | .xSample => Sys2Proof.Machine.execXSample s
  | .xHold2 => Sys2Proof.Machine.execXHold2 s
  | .xShift => Sys2Proof.Machine.execXShift s
  | .xStore => Sys2Proof.Machine.execXStore s
  | .xCsHi => Sys2Proof.Machine.execXCsHi s
  | .phaseUnused12 low => Sys2Proof.Machine.execPhaseUnused12 low s
  | .phaseUnused14 low => Sys2Proof.Machine.execPhaseUnused14 low s
  | .phaseUnused18 low => Sys2Proof.Machine.execPhaseUnused18 low s

end Sys2Proof.Machine
end

