-- ==== Sys2Proof/WellFormed.lean ====
section
/-! DEFINITION. Which terms of Instr are the decoded form of a word (30_encoding.md R124, R125): the rows matched last
(CMD_RESERVED, ACCESS_UNMAPPED) exclude what an earlier row matches. -/

namespace Sys2Proof

/-- Well-formedness of an instruction. Fields of fixed width carry their range in their type, so only the two
catch-all rows need a check:
- CMD_RESERVED is "every WR CMD not matched by INIT or XFER";
- ACCESS_UNMAPPED is a descriptor (a read has DATA = 0, R111) whose offset selects nothing (R112). -/
def Instr.wf : Instr → Bool
  | .cmdReserved v => decide (v ≠ 0x00000001) && decide (v ≠ 0x00000002)
  | .accessUnmapped w off data => decide (Machine.selectReg off = .unmapped) && (w || decide (data = 0))
  | .rdCfgCs | .wrCfgCs _ | .rdCfgClk | .wrCfgClk _ | .rdCfgMosi | .wrCfgMosi _ | .rdCfgMiso | .wrCfgMiso _ => true
  | .rdCfgSpeed | .wrCfgSpeed _ | .rdLen | .wrLen _ | .rdCmd | .init | .xfer | .rdStatus | .wrStatus _ => true
  | .rdHalfNs | .wrHalfNs _ | .rdTxbuf _ | .wrTxbuf _ _ | .rdRxbuf _ | .wrRxbuf _ _ => true
  | .idle | .iDirCs | .iDirClk | .iDirMosi | .iDirMiso | .iCsHi | .iClkHi => true
  | .xCsLo | .xLoad | .xClkLo | .xMosi | .xHold1 | .xClkHi | .xSample | .xHold2 | .xShift | .xStore | .xCsHi => true
  | .phaseUnused12 _ | .phaseUnused14 _ | .phaseUnused18 _ => true

end Sys2Proof
end

