-- ==== Sys2Proof/Decode.lean ====
section
/-! DEFINITION. The decoder, total on any 64-bit descriptor and any 5-bit phase code, the encoder, and the numbering of the opcode
table (30_encoding.md R110 to R125). -/

namespace Sys2Proof

open Machine

/-! The fields of a descriptor (R111). -/

def descWrite (d : Descriptor) : Bool := d.getLsbD 63
def descRes (d : Descriptor) : BitVec 15 := d.extractLsb' 48 15
def descOff (d : Descriptor) : BitVec 16 := d.extractLsb' 32 16
def descData (d : Descriptor) : Word := d.extractLsb' 0 32

/-- A descriptor from its fields, with RES = 0 (R111). -/
def descriptor (write : Bool) (off : BitVec 16) (data : Word) : Descriptor :=
  BitVec.ofBool write ++ 0#15 ++ off ++ data

/-- A read of a control register (R150 to R169). -/
def readCtl : CtlReg → Instr
  | .cfgCs => .rdCfgCs
  | .cfgClk => .rdCfgClk
  | .cfgMosi => .rdCfgMosi
  | .cfgMiso => .rdCfgMiso
  | .cfgSpeed => .rdCfgSpeed
  | .len => .rdLen
  | .cmd => .rdCmd
  | .status => .rdStatus
  | .halfNs => .rdHalfNs

/-- A write of a CMD word: INIT and XFER are matched before CMD_RESERVED (R125). -/
def writeCmdInstr (v : Word) : Instr :=
  if v = 0x00000001 then .init else if v = 0x00000002 then .xfer else .cmdReserved v

/-- A write of a control register. -/
def writeCtl (v : Word) : CtlReg → Instr
  | .cfgCs => .wrCfgCs v
  | .cfgClk => .wrCfgClk v
  | .cfgMosi => .wrCfgMosi v
  | .cfgMiso => .wrCfgMiso v
  | .cfgSpeed => .wrCfgSpeed v
  | .len => .wrLen v
  | .cmd => writeCmdInstr v
  | .status => .wrStatus v
  | .halfNs => .wrHalfNs v

/-- The access that the fields W, OFF, DATA name (R112, R124 step 2). -/
def accessInstr (write : Bool) (off : BitVec 16) (data : Word) : Instr :=
  match selectReg off with
  | .ctl r => if write then writeCtl data r else readCtl r
  | .txbuf k => if write then .wrTxbuf k data else .rdTxbuf k
  | .rxbuf k => if write then .wrRxbuf k data else .rdRxbuf k
  | .unmapped => .accessUnmapped write off data

/-- Decoding of a descriptor (R124): total, and refused by name exactly for RES ≠ 0 and a read with DATA ≠ 0 (R125). -/
def decodeBus (d : Descriptor) : Decoded :=
  if descRes d ≠ 0 then .refuse .reservedBitsSet
  else if descWrite d = false ∧ descData d ≠ 0 then .refuse .readWithData
  else .instr (accessInstr (descWrite d) (descOff d) (descData d))

/-- Decoding of a PHASE code (R120, R121). -/
def decodeSeq (c : BitVec 5) : Instr :=
  if c = Phase.idle then .idle
  else if c = Phase.iDirCs then .iDirCs
  else if c = Phase.iDirClk then .iDirClk
  else if c = Phase.iDirMosi then .iDirMosi
  else if c = Phase.iDirMiso then .iDirMiso
  else if c = Phase.iCsHi then .iCsHi
  else if c = Phase.iClkHi then .iClkHi
  else if c = Phase.xCsLo then .xCsLo
  else if c = Phase.xLoad then .xLoad
  else if c = Phase.xClkLo then .xClkLo
  else if c = Phase.xMosi then .xMosi
  else if c = Phase.xHold1 then .xHold1
  else if c = Phase.xClkHi then .xClkHi
  else if c = Phase.xSample then .xSample
  else if c = Phase.xHold2 then .xHold2
  else if c = Phase.xShift then .xShift
  else if c = Phase.xStore then .xStore
  else if c = Phase.xCsHi then .xCsHi
  else if c.extractLsb' 1 4 = 9#4 then .phaseUnused12 (c.extractLsb' 0 1)
  else if c.extractLsb' 2 3 = 5#3 then .phaseUnused14 (c.extractLsb' 0 2)
  else .phaseUnused18 (c.extractLsb' 0 3)

/-- The decoder. -/
def decode : CodeWord → Decoded
  | .bus d => decodeBus d
  | .seq c => .instr (decodeSeq c)

/-- The encoder, row by row from spec/opcode_table.json and R111, R120. -/
def encode : Instr → CodeWord
  | .rdCfgCs => .bus (descriptor false 0x000 0)
  | .wrCfgCs v => .bus (descriptor true 0x000 v)
  | .rdCfgClk => .bus (descriptor false 0x004 0)
  | .wrCfgClk v => .bus (descriptor true 0x004 v)
  | .rdCfgMosi => .bus (descriptor false 0x008 0)
  | .wrCfgMosi v => .bus (descriptor true 0x008 v)
  | .rdCfgMiso => .bus (descriptor false 0x00C 0)
  | .wrCfgMiso v => .bus (descriptor true 0x00C v)
  | .rdCfgSpeed => .bus (descriptor false 0x010 0)
  | .wrCfgSpeed v => .bus (descriptor true 0x010 v)
  | .rdLen => .bus (descriptor false 0x014 0)
  | .wrLen v => .bus (descriptor true 0x014 v)
  | .rdCmd => .bus (descriptor false 0x018 0)
  | .init => .bus (descriptor true 0x018 0x00000001)
  | .xfer => .bus (descriptor true 0x018 0x00000002)
  | .cmdReserved v => .bus (descriptor true 0x018 v)
  | .rdStatus => .bus (descriptor false 0x01C 0)
  | .wrStatus v => .bus (descriptor true 0x01C v)
  | .rdHalfNs => .bus (descriptor false 0x020 0)
  | .wrHalfNs v => .bus (descriptor true 0x020 v)
  | .rdTxbuf k => .bus (descriptor false (txOffset k) 0)
  | .wrTxbuf k v => .bus (descriptor true (txOffset k) v)
  | .rdRxbuf k => .bus (descriptor false (rxOffset k) 0)
  | .wrRxbuf k v => .bus (descriptor true (rxOffset k) v)
  | .accessUnmapped w off data => .bus (descriptor w off data)
  | .idle => .seq 0x00
  | .iDirCs => .seq 0x01
  | .iDirClk => .seq 0x02
  | .iDirMosi => .seq 0x03
  | .iDirMiso => .seq 0x04
  | .iCsHi => .seq 0x05
  | .iClkHi => .seq 0x06
  | .xCsLo => .seq 0x07
  | .xLoad => .seq 0x08
  | .xClkLo => .seq 0x09
  | .xMosi => .seq 0x0A
  | .xHold1 => .seq 0x0B
  | .xClkHi => .seq 0x0C
  | .xSample => .seq 0x0D
  | .xHold2 => .seq 0x0E
  | .xShift => .seq 0x0F
  | .xStore => .seq 0x10
  | .xCsHi => .seq 0x11
  | .phaseUnused12 b => .seq (9#4 ++ b)
  | .phaseUnused14 b => .seq (5#3 ++ b)
  | .phaseUnused18 b => .seq (3#2 ++ b)

/-- A word of the opcode table (log 21): a `seq` row has 5 bits, one byte; a `bus` row has 64 bits. The block stores no
instruction anywhere (00_scope.md R2, 10_state.md R52), so the number itself is the word. -/
def tableCodeWord (nbits w : Nat) : Option CodeWord :=
  if 1 ≤ nbits ∧ nbits ≤ 8 then (if w < 32 then some (.seq (BitVec.ofNat 5 w)) else none)
  else if w < 18446744073709551616 then some (.bus (BitVec.ofNat 64 w))
  else none

/-- The instruction the decoder reads from a word of the table. -/
def decodeTableWord (nbits w : Nat) : Option Instr :=
  match tableCodeWord nbits w with
  | none => none
  | some c =>
    match decode c with
    | .instr i => some i
    | .refuse _ => none

end Sys2Proof
end

