-- ==== Sys2Proof/Machine/Fetch.lean ====
section
/-! DEFINITION. What the next step runs: the choice of the agent (00_scope.md R16, log 1), the host's next input (log 20), the
micro-operation at PHASE (10_state.md R52). The block fetches no instruction from a memory (20_memory.md R96). -/

namespace Sys2Proof.Machine

/-- What a step does. -/
inductive Fetched where
  /-- It runs an instruction. -/
  | run (i : Instr)
  /-- An event from outside changes the state; no instruction runs. -/
  | event
  /-- The host's descriptor spells no access (30_encoding.md R124). -/
  | invalid (e : DecodeError)
  deriving DecidableEq, Repr

/-- The instruction at PHASE (R52): while BUSY = 0 the sequencer has no step (41_initialize.md R200), but an unused code is
found whatever BUSY is (30_encoding.md R121, log 15). -/
def State.microOp (s : State) : Instr := if s.busy || Phase.unused s.phase then decodeSeq s.phase else .idle

/-- The agent the choice between host and sequencer falls on: the schedule's next entry, or a free value (R16, log 1). -/
def State.nextAgent (s : State) : Agent :=
  match s.schedule with
  | a :: _ => a
  | [] => if Config.hostMoves s.turns then .host else .sequencer

/-- The agent that moves: a choice arises only when the inbox holds an input and BUSY = 1. With neither, the sequencer's
IDLE is what runs. -/
def State.mover (s : State) : Agent :=
  match s.inbox with
  | [] => .sequencer
  | _ :: _ => if s.busy then s.nextAgent else .host

/-- A choice that arose is used up. -/
def State.takeTurn (s : State) : State :=
  match s.inbox with
  | [] => s
  | _ :: _ => if s.busy then { s with schedule := s.schedule.tail, turns := s.turns + 1 } else s

/-- A host access, `bits` wide (20_memory.md R89): another width than 32 is ACCESS_UNMAPPED (40_host_bus.md R175, log 17). -/
def fetchAccess (bits : Nat) (d : Descriptor) : Fetched :=
  match decodeBus d with
  | .refuse e => .invalid e
  | .instr i => .run (if bits = 32 then i else .accessUnmapped (descWrite d) (descOff d) (descData d))

/-- A host access by platform address: only an address in the block's window is an access to the block (R80, R81, log 25). -/
def fetchAccessAt (p : Params) (bits : Nat) (write : Bool) (addr : Nat) (data : Word) : Fetched :=
  match p.offsetOf addr with
  | none => .event
  | some off => fetchAccess bits (descriptor write off (if write then data else 0))

/-- What the host's next input is. -/
def fetchInput (p : Params) : Input → Fetched
  | .access bits d => fetchAccess bits d
  | .accessAt bits write addr data => fetchAccessAt p bits write addr data
  | .poll => .run .rdStatus
  | .reset _ => .event
  | .drvReady _ => .event

/-- The input's own effect on the state before an instruction runs: RST (R350, R352), DRV_READY (R45). -/
def State.platform (s : State) : Input → State
  | .access _ _ => s
  | .accessAt _ _ _ _ => s
  | .poll => s
  | .reset inFlight => if inFlight then s.resetInFlight else s.blockReset
  | .drvReady b => { s with drvReady := b }

/-- A poll stays in the inbox while its read returns BUSY = 1 (30_encoding.md R123, log 19); any other input is used up. -/
def State.popInput (s : State) : State :=
  match s.inbox with
  | [] => s
  | .poll :: rest => if s.busy then s else { s with inbox := rest }
  | .access _ _ :: rest => { s with inbox := rest }
  | .accessAt _ _ _ _ :: rest => { s with inbox := rest }
  | .reset _ :: rest => { s with inbox := rest }
  | .drvReady _ :: rest => { s with inbox := rest }

/-- What the next step does, and the state it does it in. -/
def State.fetch (s : State) : Fetched × State :=
  match s.mover, s.inbox with
  | .host, i :: _ => (fetchInput s.params i, s.takeTurn.popInput.platform i)
  | _, _ => (.run s.microOp, s.takeTurn)

/-- Place a word where the next step takes its instruction from: a descriptor as the host's next input, a phase code in PHASE
with BUSY = 1 (log 20). IDLE has BUSY = 0 (R120) and no step while an input waits, so it empties the inbox. -/
def State.place (s : State) : CodeWord → State
  | .bus d =>
    { s with inbox := .access 32 d :: s.inbox, schedule := if s.busy then .host :: s.schedule else s.schedule }
  | .seq c =>
    if c = Phase.idle then { s with phase := c, busy := false, inbox := [] }
    else { s with phase := c, busy := true, schedule := if s.inbox.isEmpty then s.schedule else .sequencer :: s.schedule }

end Sys2Proof.Machine
end

