-- ==== Sys2Proof/Machine/Step.lean ====
section
/-! DEFINITION. One step of the machine: one host access, one platform event or one micro-operation (00_scope.md R16, 20_memory.md R90). -/

namespace Sys2Proof.Machine

/-- One step. -/
def step (s : State) : Host.Outcome State Fault Refusal :=
  match s.fetch with
  | (.run i, t) => exec i t
  | (.event, t) => .next t
  | (.invalid e, _) => .refused (.invalidDescriptor e)

/-- `s` with a word of the opcode table placed where the next step takes its instruction from (log 20, log 21). -/
def State.withFetchWord (s : State) (nbits w : Nat) : State :=
  match tableCodeWord nbits w with
  | none => s
  | some c => s.place c

end Sys2Proof.Machine
end

