-- ==== Sys2Proof/Machine/Timing.lean ====
section
/-! DEFINITION. Timed readings of a trace (43_timing.md R285). The model itself is untimed: these definitions say which times a trace may
be given, in nanoseconds. -/

namespace Sys2Proof.Machine

/-- The length of the hold at position `k`, and 0 where another event stands. -/
def holdNs (tr : List Event) (k : Nat) : Nat :=
  match tr[k]? with
  | some (.hold h) => h
  | _ => 0

/-- A timed reading: times never decrease, and the events on either side of a hold are at least its length apart (R285). A hold
at the first or last position has a neighbour on one side only and is not constrained (log 23). -/
abbrev TimedReading (tr : List Event) (τ : Nat → ℚ) : Prop :=
  ∀ k < tr.length, (k + 1 < tr.length → τ k ≤ τ (k + 1)) ∧
    (0 < k → k + 1 < tr.length → τ (k - 1) + (holdNs tr k : ℚ) ≤ τ (k + 1))

end Sys2Proof.Machine
end

