-- ==== Sys2Proof/Safety.lean ====
section
/-! DEFINITION. The terms claims use: runs, the invariant of the machine, the traces of the two commands (41_initialize.md R207,
42_transfer.md R242), premises about the pin driver and the slave (10_state.md R48, 60_exceptions.md R320), and what a run
may be trusted for (60_exceptions.md R300). -/

namespace Sys2Proof.Machine

/-- `n` steps, stopping at the first fault or refusal. -/
def runSteps : Nat → State → Host.Outcome State Fault Refusal
  | 0, s => .next s
  | n + 1, s =>
    match step s with
    | .next t => runSteps n t
    | .fault r => .fault r
    | .refused r => .refused r

/-- The state an outcome goes on in, if it does. -/
def stateOf : Host.Outcome State Fault Refusal → Option State
  | .next s => some s
  | .fault _ => none
  | .refused _ => none

/-- The invariant: what holds at reset and after every step, so in every state a run reaches. -/
structure State.Inv (s : State) : Prop where
  /-- R200: when BUSY = 0, phase is IDLE. -/
  phase_idle : s.busy = false → s.phase = Phase.idle
  /-- R121: a running command is at one of the codes 0x01 to 0x11. -/
  phase_used : s.busy = true → 1 ≤ s.phase.toNat ∧ s.phase.toNat ≤ 0x11
  /-- R310: in the fault state BUSY = 0. -/
  fault_stops : s.fault = true → s.busy = false
  /-- R50: FAULTED equals STATUS.FAULT. -/
  faulted_eq : s.faulted = s.fault
  /-- R38: FCODE is 0 when FAULT = 0. -/
  fcode_zero : s.fault = false → s.fcode = 0
  /-- R301: FCODE is one of the named codes after a fault. -/
  fcode_named : s.fault = true → ∃ c : FaultCode, s.fcode = c.code
  /-- R42: the latch always equals the registers. -/
  latch : s.busy = true → s.port = s.cfgPort
  /-- R305, R306: a running command has a legal port. -/
  port_legal : s.busy = true → s.port.distinct = true ∧ s.port.speedOk = true
  /-- The canonical forms. -/
  tx_wf : s.tx.wf = true
  rx_wf : s.rx.wf = true
  lines_wf : s.lines.wf = true
  /-- R83: a buffer has entries below BUF_BYTES only. -/
  tx_bound : ∀ k, s.tx.valid k = true → k < s.bufBytes
  rx_bound : ∀ k, s.rx.valid k = true → k < s.bufBytes
  /-- R49: INITED is a set, and it holds legal ports. -/
  inited_nodup : s.inited.Nodup
  inited_legal : ∀ p ∈ s.inited, p.distinct = true ∧ p.speedOk = true
  /-- R284, R319: between micro-operations the timer is idle. -/
  timer_idle : s.timer = 0
  /-- While an XFER runs: its length and half-period are those of acceptance (R230), every byte it will send is valid (R308),
  its port is initialized (R309). -/
  xfer_inputs : s.busy = true → 0x07 ≤ s.phase.toNat →
    s.nlen = s.len ∧ s.nlen.toNat ≤ s.bufBytes ∧ s.half.toNat = halfPeriod s.port.speed ∧
      s.tx.validBelow s.nlen.toNat = true ∧ s.initialized = true
  /-- Its position: J bytes are stored, and no other entry of RXBUF is valid (R230, R240). -/
  xfer_stored : s.busy = true → 0x07 ≤ s.phase.toNat → ∀ k, s.rx.valid k = true ↔ k < s.j.toNat
  xfer_start : s.busy = true → s.phase = Phase.xCsLo → s.j = 0
  xfer_byte : s.busy = true → 0x08 ≤ s.phase.toNat → s.phase.toNat ≤ 0x10 → s.j.toNat < s.nlen.toNat
  xfer_bit : s.busy = true → 0x09 ≤ s.phase.toNat → s.phase.toNat ≤ 0x0F → s.bitn.toNat < 8
  xfer_end : s.busy = true → s.phase = Phase.xCsHi → s.j.toNat = s.nlen.toNat

/-- A model fault has been recorded: the hardware's behaviour in such a run is unconstrained, and a claim about the machine after
it is a claim about the model only (60_exceptions.md R300, log 9). -/
def State.modelFaulted (s : State) : Bool :=
  s.fault && (decide (s.fcode = FaultCode.code .driverNotReady) || decide (s.fcode = FaultCode.code .badPins) ||
    decide (s.fcode = FaultCode.code .badSpeed) || decide (s.fcode = FaultCode.code .notInit))

/-- A run of `n` steps that goes on throughout and reaches no model fault: what a claim about the hardware may rest on. -/
def SafeRun (n : Nat) (s : State) : Prop := ∀ k ≤ n, ∃ t, runSteps k s = .next t ∧ t.modelFaulted = false

/-! ## What one acknowledged request leaves (10_state.md R46, R47) -/

/-- `t` is `s` after an acknowledged `GpioSetDir(pin, d)` and `phase <- next`, and nothing else: one answer is used up, the event is
recorded, only `DIR[pin]` has changed among the lines. -/
def State.AfterSetDir (s : State) (pin : Word) (d : Dir) (next : BitVec 5) (t : State) : Prop :=
  t = { s with answers := s.answers.tail, draws := s.draws + 1, lines := t.lines,
               trace := s.trace ++ [.setDir pin d], phase := next } ∧
    t.lines.wf = true ∧ ∀ q, t.dir q = (if q = pin then d.line else s.dir q) ∧ t.level q = s.level q

/-- The same for `GpioWrite(pin, l)`: only `LVL[pin]` has changed among the lines. -/
def State.AfterWrite (s : State) (pin : Word) (l : Level) (next : BitVec 5) (t : State) : Prop :=
  t = { s with answers := s.answers.tail, draws := s.draws + 1, lines := t.lines,
               trace := s.trace ++ [.write pin l], phase := next } ∧
    t.lines.wf = true ∧ ∀ q, t.dir q = s.dir q ∧ t.level q = (if q = pin then l.line else s.level q)

/-- `t` is `s` in the fault state of the code `c`, when no fault came before (60_exceptions.md R310), and nothing else; what the host is
answered, if it raised the fault, is left open (log 10). -/
def State.AfterFault (s : State) (c : FaultCode) (t : State) : Prop :=
  t = { s with fcode := c.code, fault := true, busy := false, faulted := true, phase := Phase.idle,
               trace := s.trace ++ [.fault c], answer := t.answer }

/-! ## Kinds of instruction -/

/-- A host access: a row of the `bus` format. -/
def isHostAccess (i : Instr) : Prop := ∃ d, encode i = .bus d

/-- A row of the `seq` format. -/
def isSequencer (i : Instr) : Prop := ∃ c, encode i = .seq c

/-! ## Premises -/

/-- The pin driver acknowledges the next `n` requests (a premise R320 asks a claim to state). -/
def State.NoDriverError (s : State) (n : Nat) : Prop := ∀ i < n, (s.answerAt i).err = false

/-- The host stays away while the sequencer runs. -/
def State.HostQuiet (s : State) : Prop := s.inbox = []

/-- LOOPBACK over the next `n` steps: each read of miso is answered with `LVL[PORT.mosi]` at the time of the read (R48). -/
def State.Loopback (s : State) (n : Nat) : Prop :=
  ∀ k < n, ∀ t, runSteps k s = .next t → t.phase = Phase.xSample → t.nextAnswer.lvl.line = t.level t.port.mosi

/-- HIGH or LOW over the next `n` steps: each read is answered with the level `l` (R48). -/
def State.MisoHeld (s : State) (l : Level) (n : Nat) : Prop :=
  ∀ k < n, ∀ t, runSteps k s = .next t → t.phase = Phase.xSample → t.nextAnswer.lvl = l

/-! ## The traces of the commands -/

/-- The six events of an INIT (R207). -/
def initEvents (p : Port) : List Event :=
  [.setDir p.cs .output, .setDir p.clk .output, .setDir p.mosi .output, .setDir p.miso .input, .write p.cs .high,
    .write p.clk .high]

/-- Bit position `i` of a byte in serial order: `(b >> (7 - i)) & 1` (R243). -/
def serialBit (b : Byte) (i : Nat) : Byte := (b >>> (7 - i)) &&& 1

/-- The six events of one bit (R242): `b` the outbound bit, `l` the sampled level. -/
def bitEvents (p : Port) (h : Nat) (b : Byte) (l : Level) : List Event :=
  [.write p.clk .low, .write p.mosi (lvl b), .hold h, .write p.clk .high, .read p.miso l, .hold h]

/-- The 48 events of one byte, bits in order; `ls i` is the level read at bit `i`. -/
def byteEvents (p : Port) (h : Nat) (b : Byte) (ls : Nat → Level) : List Event :=
  (List.range 8).flatMap fun i => bitEvents p h (serialBit b i) (ls i)

/-- The whole trace of an XFER of `n` bytes (R242): `bytes j` is byte j, `ls j i` the level read at bit i of byte j. -/
def transferEvents (p : Port) (h : Nat) (n : Nat) (bytes : Nat → Byte) (ls : Nat → Nat → Level) : List Event :=
  .write p.cs .low :: (List.range n).flatMap (fun j => byteEvents p h (bytes j) (ls j)) ++ [.write p.cs .high]

/-- The byte that the levels of eight reads make: Σ bit(l(i)) · 2^(7 - i) (R245). -/
def receivedByte (ls : Nat → Level) : Nat := ((List.range 8).map fun i => (bit (ls i)).toNat * 2 ^ (7 - i)).sum

/-- The level that the XFER starting in `s` reads at bit `i` of byte `j`: requests before it are X_CS_LO's, four for every
earlier bit, and this bit's three writes. -/
def State.sampled (s : State) (j i : Nat) : Level := (s.answerAt (4 * (8 * j + i) + 4)).lvl

/-- An XFER of `n` bytes has just been accepted and its first micro-operation is next, in a state a run reaches. -/
structure State.XferStart (s : State) (n : Nat) : Prop where
  inv : s.Inv
  busy : s.busy = true
  phase : s.phase = Phase.xCsLo
  len : s.nlen.toNat = n
  quiet : s.HostQuiet

end Sys2Proof.Machine
end

