-- ==== Sys2Proof/Certificates/Slice0/Obligations.lean ====
section
/-! DEFINITION. The statements for the provers. Where the free values matter (scheduling, pin-driver answers, MISO levels, buffer
parameters) a statement holds for every value of them. -/

open Sys2Proof Sys2Proof.Machine

/-! ## Encoding -/

/-- Decoding an encoded well-formed instruction gives it back, every operand at every value (30_encoding.md R111, R120, R124). -/
def Obligations.DecodeOfEncodeIsIdentity : Prop :=
  ∀ i : Instr, i.wf = true → decode (encode i) = .instr i

/-- A word that decodes is the encoding of the instruction it decodes to, which is well-formed (R124, R125). -/
def Obligations.EncodeOfDecodeIsIdentity : Prop :=
  ∀ (c : CodeWord) (i : Instr), decode c = .instr i → encode i = c ∧ i.wf = true

/-- R124: the three steps of decoding, on the bits of the 64-bit word. Step 3 as an example of "the access's outcome is decided by the
block's rules": an unmapped or misaligned offset decodes, to an access that gets a bus error. -/
def Obligations.DecodingIsTotalAndRefusesByName : Prop :=
  ∀ d : Descriptor,
    (d.extractLsb' 48 15 ≠ 0 → decodeBus d = .refuse .reservedBitsSet) ∧
    (d.extractLsb' 48 15 = 0 → d.getLsbD 63 = false → d.extractLsb' 0 32 ≠ 0 → decodeBus d = .refuse .readWithData) ∧
    (d.extractLsb' 48 15 = 0 → (d.getLsbD 63 = true ∨ d.extractLsb' 0 32 = 0) →
      ∃ i, decodeBus d = .instr i ∧ encode i = .bus d ∧
        (selectReg (d.extractLsb' 32 16) = .unmapped →
          ∀ s, exec i s = .next { s with answer := some .busError }))

/-- Words written out from the spec (95_test_vectors.md V1.1, 30_encoding.md R120) decode to the instructions they stand for. -/
def Obligations.WordsOfTheSpecDecode : Prop :=
  decodeTableWord 64 0x8000000000000008 = some (.wrCfgCs 8) ∧
  decodeTableWord 64 0x80000010000F4240 = some (.wrCfgSpeed 1000000) ∧
  decodeTableWord 64 0x8000001800000001 = some .init ∧
  decodeTableWord 64 0x8000001800000002 = some .xfer ∧
  decodeTableWord 64 0x8000001800000003 = some (.cmdReserved 3) ∧
  decodeTableWord 64 0x0000001C00000000 = some .rdStatus ∧
  decodeTableWord 64 0x8000100400000100 = some (.wrTxbuf 1 0x100) ∧
  decodeTableWord 64 0x0000200800000000 = some (.rdRxbuf 2) ∧
  decodeTableWord 64 0x0000002400000000 = some (.accessUnmapped false 0x024 0) ∧
  decodeTableWord 64 0x0001001C00000000 = none ∧
  decodeTableWord 64 0x0000001C00000001 = none ∧
  decodeTableWord 8 0x06 = some .iClkHi ∧
  decodeTableWord 8 0x0D = some .xSample ∧
  decodeTableWord 8 0x1F = some (.phaseUnused18 7)

/-- The GPIO request format loses nothing, KIND 0b11 spells no request, and the response is {ERR, LVL} with LVL the level read for READ
with ERR = 0 and 0 otherwise (R115, R116). The request of each phase code of R120 has the fields that code names. -/
def Obligations.GpioRequestsKeepTheirFormat : Prop :=
  (∀ r : GpioRequest, GpioRequest.ofBits r.bits r.val = some r) ∧
  (∀ (b : BitVec 34) (v : Bool) (r : GpioRequest), GpioRequest.ofBits b v = some r → r.bits = b ∧ r.val = v) ∧
  (∀ (b : BitVec 34) (v : Bool), GpioRequest.ofBits b v = none ↔ b.toNat / 4294967296 = 3) ∧
  (∀ (r : GpioRequest) (a : GpioAnswer), (respond r a).bits.toNat =
    2 * a.err.toNat + (if r.kind = .read ∧ a.err = false ∧ a.lvl = .high then 1 else 0)) ∧
  (∀ s : State,
    (∀ e ∈ [(0x01#5, GpioKind.setDir, s.port.cs, true), (0x02, .setDir, s.port.clk, true), (0x03, .setDir, s.port.mosi, true),
        (0x04, .setDir, s.port.miso, false), (0x05, .write, s.port.cs, true), (0x06, .write, s.port.clk, true),
        (0x07, .write, s.port.cs, false), (0x09, .write, s.port.clk, false), (0x0A, .write, s.port.mosi, s.outsr.getLsbD 7),
        (0x0C, .write, s.port.clk, true), (0x0D, .read, s.port.miso, false), (0x11, .write, s.port.cs, true)],
      ({ s with phase := e.1 }).request = some ⟨e.2.1, e.2.2.1, e.2.2.2⟩) ∧
    ∀ c ∈ [0x00#5, 0x08#5, 0x0B#5, 0x0E#5, 0x0F#5, 0x10#5], ({ s with phase := c }).request = none)

/-! ## The step -/

/-- A step runs the decoded instruction: the host's next access when the host moves, the micro-operation at PHASE when the sequencer
does (00_scope.md R16, 10_state.md R52, 20_memory.md R90). The model's choices, not the spec's: that `schedule`, and after it a free
value, says who moves when both can (log 1), that the host's accesses stand in `inbox` (log 20), that a step with nobody to move runs
IDLE, where the spec says the sequencer has no step (log 14). -/
def Obligations.StepRunsTheDecodedInstruction : Prop :=
  (∀ s d i rest, s.busy = false → s.inbox = .access 32 d :: rest → decode (.bus d) = .instr i →
    step s = exec i { s with inbox := rest }) ∧
  (∀ s d i rest sch, s.busy = true → s.inbox = .access 32 d :: rest → s.schedule = .host :: sch →
    decode (.bus d) = .instr i →
    step s = exec i { s with inbox := rest, schedule := sch, turns := s.turns + 1 }) ∧
  (∀ s i, s.busy = true → s.inbox = [] → decode (.seq s.phase) = .instr i → step s = exec i s) ∧
  (∀ s i x rest sch, s.busy = true → s.inbox = x :: rest → s.schedule = .sequencer :: sch →
    decode (.seq s.phase) = .instr i →
    step s = exec i { s with schedule := sch, turns := s.turns + 1 }) ∧
  (∀ s d i j rest, s.busy = true → s.inbox = .access 32 d :: rest → s.schedule = [] → decode (.bus d) = .instr i →
    decode (.seq s.phase) = .instr j →
    step s = exec i { s with inbox := rest, turns := s.turns + 1 } ∨ step s = exec j { s with turns := s.turns + 1 }) ∧
  (∀ s, s.busy = false → s.inbox = [] → s.phase.toNat < 0x12 → step s = exec .idle s) ∧
  (∀ s d e rest, s.busy = false → s.inbox = .access 32 d :: rest → decode (.bus d) = .refuse e →
    step s = .refused (.invalidDescriptor e))

/-- A word placed by withFetchWord is what the very next step runs, and the placing leaves nothing behind but the count of choices
(the model's own; log 20). -/
def Obligations.PlacedWordRunsNext : Prop :=
  (∀ (s : State) (w : Nat) (i : Instr), decodeTableWord 64 w = some i →
    step (s.withFetchWord 64 w) = exec i { s with turns := if s.busy then s.turns + 1 else s.turns }) ∧
  (∀ (s : State) (c : BitVec 5), c ≠ 0 →
    step (s.withFetchWord 8 c.toNat) =
      exec (decodeSeq c) { s with phase := c, busy := true, turns := if s.inbox = [] then s.turns else s.turns + 1 }) ∧
  (∀ s : State, step (s.withFetchWord 8 0) = exec .idle { s with phase := 0, busy := false, inbox := [] })

/-- An access of another width than 32 bits gets a bus error and changes nothing, whatever it addresses (20_memory.md R89,
40_host_bus.md R150 step 1, R175). -/
def Obligations.OtherWidthGetsBusError : Prop :=
  ∀ s bits d i rest, s.inbox = .access bits d :: rest → bits ≠ 32 → decode (.bus d) = .instr i →
    (s.busy = false → step s = .next { s with inbox := rest, answer := some .busError }) ∧
    (∀ sch, s.busy = true → s.schedule = .host :: sch →
      step s = .next { s with inbox := rest, schedule := sch, turns := s.turns + 1, answer := some .busError })

/-- What the platform's inputs do, with BUSY = 0 or, on the host's turn, with BUSY = 1. An access by the platform address BLOCK_BASE + off
is the access at the offset off, the low 14 bits of the address (R80, R81); an address outside the block's 0x4000 bytes does nothing to
it (the model's reading, log 25). DRV_READY takes the value the platform gives it, and nothing else changes (R45; that the input comes
in the host's turn is the model's choice, log 1 and log 6). -/
def Obligations.PlatformInputsReachTheBlock : Prop :=
  ∀ (s : State) (bits : Nat) (w : Bool) (data : Word) (rest : List Input) (sch : List Agent),
    (∀ off : BitVec 16, off.toNat < 0x4000 → (s.busy = false ∨ s.schedule = .host :: sch) →
      step { s with inbox := .accessAt bits w (s.params.blockBase + off.toNat) data :: rest } =
        step { s with inbox := .access bits (descriptor w off (if w then data else 0)) :: rest }) ∧
    (∀ addr, (addr < s.params.blockBase ∨ s.params.blockBase + 0x4000 ≤ addr) →
      (s.busy = false → step { s with inbox := .accessAt bits w addr data :: rest } = .next { s with inbox := rest }) ∧
      (s.busy = true → s.schedule = .host :: sch → step { s with inbox := .accessAt bits w addr data :: rest } =
        .next { s with inbox := rest, schedule := sch, turns := s.turns + 1 })) ∧
    (∀ ready : Bool,
      (s.busy = false → step { s with inbox := .drvReady ready :: rest } = .next { s with inbox := rest, drvReady := ready }) ∧
      (s.busy = true → s.schedule = .host :: sch → step { s with inbox := .drvReady ready :: rest } =
        .next { s with inbox := rest, schedule := sch, turns := s.turns + 1, drvReady := ready }))

/-- POLL reads STATUS until BUSY = 0: the loop ends on the first read that returns BUSY = 0 (30_encoding.md R123). -/
def Obligations.PollRepeatsWhileBusy : Prop :=
  ∀ s rest, s.inbox = .poll :: rest →
    (s.busy = false → step s = exec .rdStatus { s with inbox := rest }) ∧
    (∀ sch, s.busy = true → s.schedule = .host :: sch →
      step s = exec .rdStatus { s with schedule := sch, turns := s.turns + 1 })

/-! ## Host accesses -/

/-- RD of the six plain registers: the register's value, also while BUSY = 1, when it is the value latched in PORT; a bus error
only while FAULT = 1 (R153, R155, R157, R159, R161, R163). -/
def Obligations.RegisterReadsReturnTheRegister : Prop :=
  ∀ s : State,
    (∀ e ∈ [(Instr.rdCfgCs, s.cfgCs, 0x0000000000000000#64), (.rdCfgClk, s.cfgClk, 0x0000000400000000#64),
        (.rdCfgMosi, s.cfgMosi, 0x0000000800000000#64), (.rdCfgMiso, s.cfgMiso, 0x0000000C00000000#64),
        (.rdCfgSpeed, s.cfgSpeed, 0x0000001000000000#64), (.rdLen, s.len, 0x0000001400000000#64)],
      encode e.1 = .bus e.2.2 ∧
      (s.fault = false → exec e.1 s = .next { s with answer := some (.data e.2.1) }) ∧
      (s.fault = true → exec e.1 s = .next { s with answer := some .busError })) ∧
    (s.Inv → s.busy = true → s.port = ⟨s.cfgCs, s.cfgClk, s.cfgMosi, s.cfgMiso, s.cfgSpeed⟩)

/-- WR of the six plain registers: any value is stored at once, nothing else changes, and it reads back as written; while BUSY = 1
the write does not happen and CONCURRENT is raised; while FAULT = 1 a bus error (R154, R156, R158, R160, R162, R164). -/
def Obligations.RegisterWritesStore : Prop :=
  ∀ (s : State) (v : Word),
    (∀ e ∈ [(Instr.wrCfgCs v, 0x8000000000000000), (.wrCfgClk v, 0x8000000400000000), (.wrCfgMosi v, 0x8000000800000000),
        (.wrCfgMiso v, 0x8000000C00000000), (.wrCfgSpeed v, 0x8000001000000000), (.wrLen v, 0x8000001400000000)],
      encode e.1 = .bus (BitVec.ofNat 64 (e.2 + v.toNat))) ∧
    (s.fault = false → s.busy = false →
      exec (.wrCfgCs v) s = .next { s with cfgCs := v, answer := some .done } ∧
      exec (.wrCfgClk v) s = .next { s with cfgClk := v, answer := some .done } ∧
      exec (.wrCfgMosi v) s = .next { s with cfgMosi := v, answer := some .done } ∧
      exec (.wrCfgMiso v) s = .next { s with cfgMiso := v, answer := some .done } ∧
      exec (.wrCfgSpeed v) s = .next { s with cfgSpeed := v, answer := some .done } ∧
      exec (.wrLen v) s = .next { s with len := v, answer := some .done }) ∧
    (∀ i ∈ [Instr.wrCfgCs v, .wrCfgClk v, .wrCfgMosi v, .wrCfgMiso v, .wrCfgSpeed v, .wrLen v],
      (s.fault = false → s.busy = true → ∃ t, exec i s = .next t ∧ s.AfterFault .concurrent t) ∧
      (s.fault = true → exec i s = .next { s with answer := some .busError }))

/-- The accesses whose whole effect is a bus error, whatever BUSY and FAULT are: RD CMD, WR HALF_NS, WR RXBUF[k], an access that
ACCESS_UNMAPPED stands for, and any access of a buffer index not below BUF_BYTES; WR STATUS too, so that no write clears FAULT
(R165, R168, R170, R174, R175). -/
def Obligations.RefusedAccessesGetBusError : Prop :=
  (∀ (s : State) (v : Word) (k : BitVec 10) (w : Bool) (off : BitVec 16),
    ∀ i ∈ [Instr.rdCmd, .wrStatus v, .wrHalfNs v, .wrRxbuf k v, .accessUnmapped w off v],
      exec i s = .next { s with answer := some .busError }) ∧
  (∀ (v : Word) (k : BitVec 10), encode .rdCmd = .bus 0x0000001800000000#64 ∧
    encode (.wrHalfNs v) = .bus (BitVec.ofNat 64 (0x8000002000000000 + v.toNat)) ∧
    encode (.wrRxbuf k v) = .bus (BitVec.ofNat 64 (0x8000200000000000 + 4 * k.toNat * 4294967296 + v.toNat))) ∧
  (∀ (s : State) (k : BitVec 10) (v : Word), s.bufBytes ≤ k.toNat →
    ∀ i ∈ [Instr.rdTxbuf k, .wrTxbuf k v, .rdRxbuf k, .wrRxbuf k v], exec i s = .next { s with answer := some .busError })

/-- RD STATUS returns {0^24, FCODE, 0b00, FAULT, BUSY}, whatever BUSY and FAULT are (R167). -/
def Obligations.StatusReadPacksTheFlags : Prop :=
  ∀ s : State, encode .rdStatus = .bus 0x0000001C00000000#64 ∧
    ∃ w : Word, exec .rdStatus s = .next { s with answer := some (.data w) } ∧
      w.toNat = 16 * s.fcode.toNat + 2 * s.fault.toNat + s.busy.toNat

/-- RD HALF_NS returns 500000000 div s32(CFG_SPEED), what an XFER accepted now latches into HALF, and gets a bus error for a speed of 0 or
less (R169). -/
def Obligations.HalfNsReadReturnsTheHalfPeriod : Prop :=
  ∀ s : State, encode .rdHalfNs = .bus 0x0000002000000000#64 ∧
    (s.fault = false → 0 < s.cfgSpeed.toInt → ∃ w : Word,
      exec .rdHalfNs s = .next { s with answer := some (.data w) } ∧ (w.toNat : Int) = 500000000 / s.cfgSpeed.toInt ∧
      ∀ t, s.busy = false → exec .xfer s = .next t → t.busy = true → t.half.toNat = w.toNat) ∧
    (s.fault = false → s.cfgSpeed.toInt ≤ 0 → exec .rdHalfNs s = .next { s with answer := some .busError }) ∧
    (s.fault = true → exec .rdHalfNs s = .next { s with answer := some .busError })

/-- RD TXBUF[k], also while BUSY = 1: the byte zero-extended when TXV[k] = 1, else a bus error (R171). -/
def Obligations.TxbufReadReturnsValidBytes : Prop :=
  ∀ (s : State) (k : BitVec 10), k.toNat < s.bufBytes →
    encode (.rdTxbuf k) = .bus (BitVec.ofNat 64 ((0x1000 + 4 * k.toNat) * 4294967296)) ∧
    (s.fault = false → ∀ b, s.tx.read k.toNat = some b →
      exec (.rdTxbuf k) s = .next { s with answer := some (.data (BitVec.ofNat 32 b.toNat)) }) ∧
    (s.fault = false → s.tx.valid k.toNat = false → exec (.rdTxbuf k) s = .next { s with answer := some .busError }) ∧
    (s.fault = true → exec (.rdTxbuf k) s = .next { s with answer := some .busError })

/-- WR TXBUF[k], v: TX[k] ← v[7:0] and TXV[k] ← 1, no other byte of either buffer changes; CONCURRENT while BUSY = 1 (R172). -/
def Obligations.TxbufWriteStoresTheLowByte : Prop :=
  ∀ (s : State) (k : BitVec 10) (v : Word), k.toNat < s.bufBytes →
    encode (.wrTxbuf k v) = .bus (BitVec.ofNat 64 (9223372036854775808 + (0x1000 + 4 * k.toNat) * 4294967296 + v.toNat)) ∧
    (s.fault = false → s.busy = false → ∃ t, exec (.wrTxbuf k v) s = .next t ∧
      t = { s with tx := t.tx, answer := some .done } ∧
      (∃ b, t.tx.read k.toNat = some b ∧ b.toNat = v.toNat % 256) ∧
      (∀ m, m ≠ k.toNat → t.tx.read m = s.tx.read m) ∧ (s.tx.wf = true → t.tx.wf = true)) ∧
    (s.fault = false → s.busy = true → ∃ t, exec (.wrTxbuf k v) s = .next t ∧
      s.AfterFault .concurrent t) ∧
    (s.fault = true → exec (.wrTxbuf k v) s = .next { s with answer := some .busError })

/-- RD RXBUF[k]: the byte zero-extended when BUSY = 0 and RXV[k] = 1, else a bus error (R173). -/
def Obligations.RxbufReadReturnsValidBytes : Prop :=
  ∀ (s : State) (k : BitVec 10), k.toNat < s.bufBytes →
    encode (.rdRxbuf k) = .bus (BitVec.ofNat 64 ((0x2000 + 4 * k.toNat) * 4294967296)) ∧
    (s.fault = false → s.busy = false → ∀ b, s.rx.read k.toNat = some b →
      exec (.rdRxbuf k) s = .next { s with answer := some (.data (BitVec.ofNat 32 b.toNat)) }) ∧
    ((s.busy = true ∨ s.rx.valid k.toNat = false ∨ s.fault = true) →
      exec (.rdRxbuf k) s = .next { s with answer := some .busError })

/-- No read has a side effect, and reads are idempotent (R91): a read changes the answer to the host only, and read again it gives the
same answer. -/
def Obligations.ReadsHaveNoSideEffect : Prop :=
  ∀ (s t : State) (k : BitVec 10) (off : BitVec 16),
    ∀ i ∈ [Instr.rdCfgCs, .rdCfgClk, .rdCfgMosi, .rdCfgMiso, .rdCfgSpeed, .rdLen, .rdCmd, .rdStatus, .rdHalfNs, .rdTxbuf k,
        .rdRxbuf k, .accessUnmapped false off 0],
      exec i s = .next t → t = { s with answer := t.answer } ∧ exec i t = .next t

/-- What no host access changes: the lines, the pin driver's answers, DRV_READY, the working shift registers and counters, INITED;
the flags but for an accepted command's BUSY and the entry of a fault; the trace but for an appended Fault; TXBUF but for the entry WR TXBUF[k] stores; RXBUF but for an accepted XFER, which clears it. -/
def Obligations.HostAccessFrame : Prop :=
  ∀ (i : Instr) (s t : State), i.wf = true → isHostAccess i → exec i s = .next t →
    t.params = s.params ∧ t.lines = s.lines ∧ t.answers = s.answers ∧ t.draws = s.draws ∧ t.drvReady = s.drvReady ∧
    t.outsr = s.outsr ∧ t.insr = s.insr ∧ t.bitn = s.bitn ∧ t.timer = s.timer ∧ t.inited = s.inited ∧
    t.faultPhase = s.faultPhase ∧ t.inbox = s.inbox ∧ t.schedule = s.schedule ∧ t.turns = s.turns ∧
    ((t.fault = s.fault ∧ t.fcode = s.fcode ∧ t.faulted = s.faulted ∧ t.trace = s.trace ∧
        (t.busy = s.busy ∨ i = .init ∨ i = .xfer)) ∨
      (s.fault = false ∧ t.fault = true ∧ ∃ c, t.trace = s.trace ++ [.fault c])) ∧
    (∀ m, (∀ k v, i = .wrTxbuf k v → m ≠ k.toNat) → t.tx.read m = s.tx.read m) ∧
    (∀ m, (i = .xfer ∧ t.fault = false ∧ s.busy = false ∧ s.fault = false) ∨ t.rx.read m = s.rx.read m) ∧
    ((∃ v, i = .wrCfgCs v) ∨ t.cfgCs = s.cfgCs) ∧ ((∃ v, i = .wrCfgClk v) ∨ t.cfgClk = s.cfgClk) ∧
    ((∃ v, i = .wrCfgMosi v) ∨ t.cfgMosi = s.cfgMosi) ∧ ((∃ v, i = .wrCfgMiso v) ∨ t.cfgMiso = s.cfgMiso) ∧
    ((∃ v, i = .wrCfgSpeed v) ∨ t.cfgSpeed = s.cfgSpeed) ∧ ((∃ v, i = .wrLen v) ∨ t.len = s.len) ∧
    ((i = .init ∨ i = .xfer) ∨ (t.port = s.port ∧ t.phase = (if t.fault = s.fault then s.phase else 0))) ∧
    (i = .xfer ∨ (t.nlen = s.nlen ∧ t.half = s.half ∧ t.j = s.j))

/-! ## Commands -/

/-- A CMD word whose OP is 0b00 or 0b11, or whose bits [31:2] are not all zero, raises RESERVED_CMD when BUSY = 0 and FAULT = 0, and no
command starts (R303). -/
def Obligations.ReservedCommandWordFaults : Prop :=
  ∀ (s : State) (v : Word), (v.toNat % 4 = 0 ∨ v.toNat % 4 = 3 ∨ v.toNat / 4 ≠ 0) →
    decode (.bus (BitVec.ofNat 64 (0x8000001800000000 + v.toNat))) = .instr (.cmdReserved v) ∧
    (s.busy = false → s.fault = false → ∃ t, exec (.cmdReserved v) s = .next t ∧
      s.AfterFault .reservedCmd t)

/-- The priority at command issue (R311): each fault is the one reported when its condition holds and no earlier one does. `v` is the
CMD word, 1 for INIT and 2 for XFER. -/
def Obligations.CommandReportsTheFirstFault : Prop :=
  ∀ (s : State) (v : Word),
    let run := exec (writeCmdInstr v) s
    let faults := fun c => ∃ t, run = .next t ∧ s.AfterFault c t
    let equalPins := s.cfgCs = s.cfgClk ∨ s.cfgCs = s.cfgMosi ∨ s.cfgCs = s.cfgMiso ∨ s.cfgClk = s.cfgMosi ∨
      s.cfgClk = s.cfgMiso ∨ s.cfgMosi = s.cfgMiso
    let unwritten := ∃ k < s.len.toNat, s.tx.valid k = false
    let notInit := s.cfgPort ∉ s.inited ∨ s.dir s.cfgCs ≠ .output ∨ s.dir s.cfgClk ≠ .output ∨
      s.dir s.cfgMosi ≠ .output ∨ s.dir s.cfgMiso ≠ .input
    (s.fault = true → run = .next { s with answer := some .busError }) ∧
    (s.fault = false → s.busy = true → faults .concurrent) ∧
    (s.fault = false → s.busy = false →
      (v ≠ 1 ∧ v ≠ 2 → faults .reservedCmd) ∧
      ((v = 1 ∨ v = 2) → s.drvReady = false → faults .driverNotReady) ∧
      ((v = 1 ∨ v = 2) → s.drvReady = true → equalPins → faults .badPins) ∧
      ((v = 1 ∨ v = 2) → s.drvReady = true → ¬ equalPins → s.cfgSpeed.toInt ≤ 0 → faults .badSpeed) ∧
      (v = 2 → s.drvReady = true → ¬ equalPins → 0 < s.cfgSpeed.toInt →
        (s.bufBytes < s.len.toNat → faults .lenRange) ∧
        (s.len.toNat ≤ s.bufBytes → unwritten → faults .txUnwritten) ∧
        (s.len.toNat ≤ s.bufBytes → ¬ unwritten → notInit → faults .notInit)))

/-- INIT acceptance (R200): a legal port is latched, BUSY ← 1, phase ← I_DIR_CS; nothing else changes. INIT reads neither LEN nor TXBUF and
it does not change RXBUF: two states that differ in LEN, TXBUF and RXBUF only have the same INIT, and each keeps its own. -/
def Obligations.InitIsAccepted : Prop :=
  (∀ s : State, s.fault = false → s.busy = false → s.drvReady = true →
    s.cfgCs ≠ s.cfgClk → s.cfgCs ≠ s.cfgMosi → s.cfgCs ≠ s.cfgMiso → s.cfgClk ≠ s.cfgMosi → s.cfgClk ≠ s.cfgMiso →
    s.cfgMosi ≠ s.cfgMiso → 0 < s.cfgSpeed.toInt →
    exec .init s = .next { s with port := ⟨s.cfgCs, s.cfgClk, s.cfgMosi, s.cfgMiso, s.cfgSpeed⟩, busy := true, phase := 0x01,
                                  answer := some .done }) ∧
  (∀ (s t : State) (len : Word) (tx rx : Memory), exec .init s = .next t →
    t.len = s.len ∧ t.tx = s.tx ∧ t.rx = s.rx ∧
    exec .init { s with len := len, tx := tx, rx := rx } = .next { t with len := len, tx := tx, rx := rx })

/-- XFER acceptance (R230): the port, N and the half-period are latched, every RXV is cleared, J ← 0, BUSY ← 1, phase ← X_CS_LO. -/
def Obligations.XferIsAccepted : Prop :=
  ∀ s : State, s.fault = false → s.busy = false → s.drvReady = true →
    s.cfgCs ≠ s.cfgClk → s.cfgCs ≠ s.cfgMosi → s.cfgCs ≠ s.cfgMiso → s.cfgClk ≠ s.cfgMosi → s.cfgClk ≠ s.cfgMiso →
    s.cfgMosi ≠ s.cfgMiso → 0 < s.cfgSpeed.toInt →
    s.len.toNat ≤ s.bufBytes → (∀ k < s.len.toNat, s.tx.valid k = true) →
    ⟨s.cfgCs, s.cfgClk, s.cfgMosi, s.cfgMiso, s.cfgSpeed⟩ ∈ s.inited →
    s.dir s.cfgCs = .output → s.dir s.cfgClk = .output → s.dir s.cfgMosi = .output → s.dir s.cfgMiso = .input →
    ∃ t, exec .xfer s = .next t ∧
      t = { s with port := ⟨s.cfgCs, s.cfgClk, s.cfgMosi, s.cfgMiso, s.cfgSpeed⟩, nlen := s.len, half := t.half, rx := t.rx,
                   j := 0, busy := true, phase := 0x07, answer := some .done } ∧
      (t.half.toNat : Int) = 500000000 / s.cfgSpeed.toInt ∧ ∀ k, t.rx.valid k = false

/-- After a block reset, or for a port whose speed alone was changed, no XFER is accepted before an INIT: a port that is not in INITED
never gets one (R309, R352, R360). -/
def Obligations.NoXferWithoutInit : Prop :=
  ∀ (s t : State), s.cfgPort ∉ s.inited → s.busy = false → exec .xfer s = .next t →
    t.busy = false ∧ t.fault = true ∧ t.lines = s.lines

/-! ## Faults -/

/-- Every fault an instruction raises is an entry by R310: the first code is kept, FAULT ← 1, BUSY ← 0, phase ← IDLE, FAULTED, the event
`Fault(code)`; the buffers, the directions, INITED and the registers stay. No line changes, but at a DRIVER_ERROR the level of the pin
of the failed request, which becomes unknown: the pin of the request that the instruction's phase code issues (R320). That a failed
request appends no event beside `Fault(code)` is the model's reading (log 12). -/
def Obligations.FaultEntry : Prop :=
  ∀ (i : Instr) (s t : State), s.lines.wf = true → s.fault = false → exec i s = .next t → t.fault = true →
    ∃ c : FaultCode, t.fcode = c.code ∧ t.busy = false ∧ t.phase = 0x00 ∧ t.faulted = true ∧
      t.trace = s.trace ++ [.fault c] ∧ t.tx = s.tx ∧ t.rx = s.rx ∧ t.inited = s.inited ∧
      t.cfgPort = s.cfgPort ∧ t.len = s.len ∧ t.insr = s.insr ∧ t.outsr = s.outsr ∧ t.bitn = s.bitn ∧ t.j = s.j ∧
      (∀ p, t.dir p = s.dir p) ∧ (c ≠ .driverError → t.lines = s.lines) ∧
      (c = .driverError → ∃ code r, encode i = .seq code ∧ ({ s with phase := code }).request = some r ∧
        t.level r.pin = .unknown ∧ ∀ q, q ≠ r.pin → t.level q = s.level q)

/-- While FAULT = 1, every host access except RD STATUS gets a bus error, and no access raises a second fault (R314, R151). -/
def Obligations.FaultedBlockAnswersStatusOnly : Prop :=
  ∀ (i : Instr) (s : State), s.fault = true → isHostAccess i →
    (i ≠ .rdStatus → exec i s = .next { s with answer := some .busError }) ∧
    (i = .rdStatus → ∃ w, exec i s = .next { s with answer := some (.data w) })

/-- No step but reset clears FAULT, and FCODE stays the code of the first fault (R313). -/
def Obligations.OnlyResetClearsAFault : Prop :=
  ∀ (s t : State), s.fault = true → step s = .next t →
    (t.fault = true ∧ t.fcode = s.fcode) ∨ ∃ b rest, s.inbox = .reset b :: rest

/-- A write to CFG_*, LEN, TXBUF[k] or CMD while BUSY = 1 does not take effect, raises CONCURRENT and stops the command: with the host
away the next step issues nothing (R302). -/
def Obligations.ConcurrentWriteStopsTheCommand : Prop :=
  ∀ (s : State) (v : Word) (k : BitVec 10), s.busy = true → s.fault = false → k.toNat < s.bufBytes →
    ∀ i ∈ [Instr.wrCfgCs v, .wrCfgClk v, .wrCfgMosi v, .wrCfgMiso v, .wrCfgSpeed v, .wrLen v, .wrTxbuf k v, .init, .xfer,
        .cmdReserved v],
      ∃ t, exec i s = .next t ∧ s.AfterFault .concurrent t ∧
        step { t with inbox := [] } = .next { t with inbox := [] }

/-- A failed request (R320): the micro-operation does not complete, the pin's level becomes unknown and no other line changes,
DRIVER_ERROR is raised; INSR and INITED are unchanged. That the failed request has no event of its own, and where its PHASE is
kept, are the model's readings (log 12, log 13). -/
def Obligations.FailedRequestRaisesDriverError : Prop :=
  ∀ s : State, s.lines.wf = true → s.fault = false → s.nextAnswer.err = true →
    ∀ e ∈ [(Instr.iDirCs, s.port.cs), (.iDirClk, s.port.clk), (.iDirMosi, s.port.mosi), (.iDirMiso, s.port.miso),
        (.iCsHi, s.port.cs), (.iClkHi, s.port.clk), (.xCsLo, s.port.cs), (.xClkLo, s.port.clk), (.xMosi, s.port.mosi),
        (.xClkHi, s.port.clk), (.xSample, s.port.miso), (.xCsHi, s.port.cs)],
      ∃ t, exec e.1 s = .next t ∧
        State.AfterFault { s with answers := s.answers.tail, draws := s.draws + 1, lines := t.lines,
                                  faultPhase := some s.phase } .driverError t ∧
        t.lines.wf = true ∧ t.answer = s.answer ∧
        ∀ q, t.dir q = s.dir q ∧ t.level q = (if q = e.2 then .unknown else s.level q)

/-! ## Micro-operations -/

/-- IDLE changes nothing: the sequencer has no step (R200; that IDLE runs as a step is the model's reading, log 14). An unused PHASE code
is a fault, never a step (R121). -/
def Obligations.IdleStaysAndUnusedPhaseFaults : Prop :=
  (∀ s : State, exec .idle s = .next s) ∧
  (∀ (s : State) (a : BitVec 1), exec (.phaseUnused12 a) s = .fault (.unusedPhase (9#4 ++ a))) ∧
  (∀ (s : State) (a : BitVec 2), exec (.phaseUnused14 a) s = .fault (.unusedPhase (5#3 ++ a))) ∧
  (∀ (s : State) (a : BitVec 3), exec (.phaseUnused18 a) s = .fault (.unusedPhase (3#2 ++ a))) ∧
  (∀ s : State, 0x12 ≤ s.phase.toNat → s.inbox = [] → step s = .fault (.unusedPhase s.phase))

/-- The six micro-operations of INIT, each request acknowledged (R201 to R206). -/
def Obligations.InitMicroOperations : Prop :=
  ∀ s : State, s.lines.wf = true → s.nextAnswer.err = false →
    (∃ t, exec .iDirCs s = .next t ∧ s.AfterSetDir s.port.cs .output 0x02 t) ∧
    (∃ t, exec .iDirClk s = .next t ∧ s.AfterSetDir s.port.clk .output 0x03 t) ∧
    (∃ t, exec .iDirMosi s = .next t ∧ s.AfterSetDir s.port.mosi .output 0x04 t) ∧
    (∃ t, exec .iDirMiso s = .next t ∧ s.AfterSetDir s.port.miso .input 0x05 t) ∧
    (∃ t, exec .iCsHi s = .next t ∧ s.AfterWrite s.port.cs .high 0x06 t) ∧
    (∃ t, exec .iClkHi s = .next t ∧
      State.AfterWrite { s with inited := t.inited, busy := false } s.port.clk .high 0x00 t ∧
      ∀ p, p ∈ t.inited ↔ p ∈ s.inited ∨ p = s.port)

/-- The pin writes of XFER, each acknowledged: X_CS_LO, X_CLK_LO, X_MOSI with the most significant bit of OUTSR, X_CLK_HI, X_CS_HI
(R231, R233, R234, R236, R241). -/
def Obligations.XferPinWrites : Prop :=
  ∀ s : State, s.lines.wf = true → s.nextAnswer.err = false →
    (∃ t, exec .xCsLo s = .next t ∧ s.AfterWrite s.port.cs .low (if s.nlen = 0 then 0x11 else 0x08) t) ∧
    (∃ t, exec .xClkLo s = .next t ∧ s.AfterWrite s.port.clk .low 0x0A t) ∧
    (∃ t, exec .xMosi s = .next t ∧ s.AfterWrite s.port.mosi (if s.outsr.getLsbD 7 then .high else .low) 0x0B t) ∧
    (∃ t, exec .xClkHi s = .next t ∧ s.AfterWrite s.port.clk .high 0x0D t) ∧
    (∃ t, exec .xCsHi s = .next t ∧ State.AfterWrite { s with busy := false } s.port.cs .high 0x00 t)

/-- X_SAMPLE, acknowledged: the level the environment answers is recorded and shifted into INSR; no line changes (R237). -/
def Obligations.SampleShiftsTheLevelIn : Prop :=
  ∀ s : State, s.nextAnswer.err = false → ∃ t, exec .xSample s = .next t ∧
    t = { s with answers := s.answers.tail, draws := s.draws + 1, trace := s.trace ++ [.read s.port.miso s.nextAnswer.lvl],
                 insr := t.insr, phase := 0x0E } ∧
    t.insr.toNat = (2 * s.insr.toNat + (if s.nextAnswer.lvl = .high then 1 else 0)) % 256

/-- The two Holds: the event, the next phase, and the timer idle again; they cannot fail (R235, R238, R283). -/
def Obligations.HoldsOnlyAdvance : Prop :=
  ∀ s : State,
    exec .xHold1 s = .next { s with timer := 0, trace := s.trace ++ [.hold s.half.toNat], phase := 0x0C } ∧
    exec .xHold2 s = .next { s with timer := 0, trace := s.trace ++ [.hold s.half.toNat], phase := 0x0F }

/-- X_LOAD: OUTSR ← TX[J], INSR ← 0, BITN ← 0 (R232). Where TXV[J] = 0, which no run reaches, some byte is loaded (R351). -/
def Obligations.LoadTakesTheByte : Prop :=
  ∀ s : State, ∃ b : Byte, exec .xLoad s = .next { s with outsr := b, insr := 0, bitn := 0, phase := 0x09 } ∧
    ∀ c, s.tx.read s.j.toNat = some c → b = c

/-- X_SHIFT: OUTSR shifts left, BITN counts, and the eighth bit ends the byte; eight shifts leave OUTSR = 0 whatever the byte was (R239). -/
def Obligations.ShiftExposesTheNextBit : Prop :=
  ∀ s : State, ∃ o : Byte, o.toNat = 2 * s.outsr.toNat % 256 ∧
    exec .xShift s = .next { s with outsr := o, bitn := s.bitn + 1, phase := if s.bitn.toNat = 7 then 0x10 else 0x09 } ∧
    shiftOut^[8] s.outsr = 0

/-- X_STORE: RX[J] ← INSR and RXV[J] ← 1, no other entry changes, J counts, and the last byte ends the loop (R240). -/
def Obligations.StorePutsTheByte : Prop :=
  ∀ s : State, ∃ t, exec .xStore s = .next t ∧
    t = { s with rx := t.rx, j := s.j + 1, phase := if (s.j + 1).toNat = s.nlen.toNat then 0x11 else 0x08 } ∧
    t.rx.read s.j.toNat = some s.insr ∧ (∀ m, m ≠ s.j.toNat → t.rx.read m = s.rx.read m) ∧
    (s.rx.wf = true → t.rx.wf = true)

/-- What no micro-operation changes: the host's registers and buffers (but the entry X_STORE writes), the latch, the platform's input,
the answer to the host, and the flags but for BUSY at an end and a driver error, which only a micro-operation with a request can meet. -/
def Obligations.MicroOperationFrame : Prop :=
  ∀ (i : Instr) (s t : State), isSequencer i → exec i s = .next t →
    t.params = s.params ∧ t.cfgPort = s.cfgPort ∧ t.len = s.len ∧ t.drvReady = s.drvReady ∧ t.port = s.port ∧
    t.nlen = s.nlen ∧ t.half = s.half ∧ t.answer = s.answer ∧ t.inbox = s.inbox ∧ t.schedule = s.schedule ∧ t.turns = s.turns ∧
    (∀ m, t.tx.read m = s.tx.read m) ∧ (∀ m, (i = .xStore ∧ m = s.j.toNat) ∨ t.rx.read m = s.rx.read m) ∧
    (t.fault = s.fault ∧ t.fcode = s.fcode ∧ t.faulted = s.faulted ∧ t.faultPhase = s.faultPhase ∨
      (s.nextAnswer.err = true ∧ i ∉ [.idle, .xLoad, .xHold1, .xHold2, .xShift, .xStore])) ∧
    (i ∈ [.xHold1, .xHold2] ∨ t.timer = s.timer) ∧
    (i ∉ [.idle, .xLoad, .xHold1, .xHold2, .xShift, .xStore] ∨
      (t.busy = s.busy ∧ t.lines = s.lines ∧ t.answers = s.answers ∧ t.draws = s.draws)) ∧
    (t.busy = s.busy ∨ t.phase = 0x00) ∧ (i = .iClkHi ∨ t.inited = s.inited) ∧
    (i ∈ [.xLoad, .xShift] ∨ (t.outsr = s.outsr ∧ t.bitn = s.bitn)) ∧ (i ∈ [.xLoad, .xSample] ∨ t.insr = s.insr) ∧
    (i = .xStore ∨ t.j = s.j)

/-! ## Whole-machine rules and invariants -/

/-- Block reset while BUSY = 0 gives the values of R350 and leaves the lines, DRV_READY and the trace (R353). That the input `reset true`
is the same plain reset while BUSY = 0, since no request is outstanding then, is the model's reading, not the spec's (log 16). The state
after power-up and reset has the values of R350 too, with every line unconf and unknown (R46, R353); that State.reset is that state is
the model's reading (log 7). RST while BUSY = 1 is ResetStopsARunningCommand. -/
def Obligations.ResetGivesTheSpecValues : Prop :=
  (∀ (s : State) (b : Bool) (rest : List Input), s.inbox = .reset b :: rest → s.busy = false → ∃ t, step s = .next t ∧
    t.cfgCs = 0 ∧ t.cfgClk = 0 ∧ t.cfgMosi = 0 ∧ t.cfgMiso = 0 ∧ t.cfgSpeed = 0 ∧ t.len = 0 ∧ t.status = 0 ∧
    (∀ k, t.tx.valid k = false ∧ t.rx.valid k = false) ∧ t.phase = 0x00 ∧ t.inited = [] ∧ t.faulted = false ∧
    t.lines = s.lines ∧ t.drvReady = s.drvReady ∧ t.trace = s.trace ∧ t.params = s.params) ∧
  (State.reset.cfgCs = 0 ∧ State.reset.cfgClk = 0 ∧ State.reset.cfgMosi = 0 ∧ State.reset.cfgMiso = 0 ∧
    State.reset.cfgSpeed = 0 ∧ State.reset.len = 0 ∧ State.reset.status = 0 ∧
    (∀ k, State.reset.tx.valid k = false ∧ State.reset.rx.valid k = false) ∧ State.reset.phase = 0x00 ∧
    State.reset.inited = [] ∧ State.reset.faulted = false ∧
    ∀ p, State.reset.dir p = .unconf ∧ State.reset.level p = .unknown)

/-- RST during a command (R352): the sequencer stops with every register at the value of R350, DRV_READY stays, no further request is
issued, and the lines stay as the driver left them. The outstanding request, if any, is answered by the driver and its result
discarded: it completes, or fails with its pin's level unknown (R46, R320), and no other line changes. That such an RST is the input
`reset true` and that a completed request in flight keeps its event are the model's readings (log 16); so is that a failed one has
none (log 12). -/
def Obligations.ResetStopsARunningCommand : Prop :=
  ∀ (s : State) (b : Bool) (rest : List Input) (sch : List Agent), s.lines.wf = true →
    s.inbox = .reset b :: rest → s.busy = true → s.schedule = .host :: sch →
    ∃ t, step s = .next t ∧
      t.cfgCs = 0 ∧ t.cfgClk = 0 ∧ t.cfgMosi = 0 ∧ t.cfgMiso = 0 ∧ t.cfgSpeed = 0 ∧ t.len = 0 ∧ t.status = 0 ∧
      t.busy = false ∧ t.fault = false ∧ t.fcode = 0 ∧ (∀ k, t.tx.valid k = false ∧ t.rx.valid k = false) ∧
      t.phase = 0x00 ∧ t.inited = [] ∧ t.faulted = false ∧ t.drvReady = s.drvReady ∧ t.params = s.params ∧
      ((b = false ∨ s.request = none) → t.lines = s.lines ∧ t.trace = s.trace ∧ t.draws = s.draws) ∧
      (b = true → ∀ r, s.request = some r → t.draws = s.draws + 1 ∧
        (∀ q, q ≠ r.pin → t.dir q = s.dir q ∧ t.level q = s.level q) ∧
        (s.nextAnswer.err = true → t.dir r.pin = s.dir r.pin ∧ t.level r.pin = .unknown ∧ t.trace = s.trace) ∧
        (s.nextAnswer.err = false → r.kind = .setDir →
          t.dir r.pin = (if r.val then .output else .input) ∧ t.level r.pin = s.level r.pin ∧
          t.trace = s.trace ++ [.setDir r.pin (if r.val then .output else .input)]) ∧
        (s.nextAnswer.err = false → r.kind = .write →
          t.dir r.pin = s.dir r.pin ∧ t.level r.pin = (if r.val then .high else .low) ∧
          t.trace = s.trace ++ [.write r.pin (if r.val then .high else .low)]) ∧
        (s.nextAnswer.err = false → r.kind = .read →
          t.lines = s.lines ∧ t.trace = s.trace ++ [.read r.pin s.nextAnswer.lvl])) ∧
      step { t with inbox := [] } = .next { t with inbox := [] }

/-- The invariant holds after reset. -/
def Obligations.InvariantHoldsAtReset : Prop := State.reset.Inv

/-- Every step keeps the invariant, from every state that has it: the latch equals the registers (R42), BUSY and PHASE agree (R200), the
fault state is consistent (R310, R50), the buffers and lines keep their canonical form and range, INITED is a set of legal ports,
and a running XFER keeps its inputs and its position. -/
def Obligations.StepKeepsTheInvariant : Prop :=
  ∀ s t : State, s.Inv → step s = .next t → t.Inv

/-- From a state with the invariant a step always goes on, unless the host's next input is a descriptor that spells no access. -/
def Obligations.StepStopsOnlyOnInvalidDescriptors : Prop :=
  ∀ s : State, s.Inv →
    (∃ t, step s = .next t) ∨
    ∃ bits d rest e, s.inbox = .access bits d :: rest ∧ decodeBus d = .refuse e ∧ step s = .refused (.invalidDescriptor e)

/-- The trace is never shortened (R47): every step's trace extends the one before. -/
def Obligations.TraceOnlyGrows : Prop :=
  ∀ s t : State, step s = .next t → ∃ es, t.trace = s.trace ++ es

/-- BUSY rises only at an accepted command (R53): with DRV_READY = 1, a port of four distinct pins and a positive speed, latched, and
the phase at the command's first micro-operation. -/
def Obligations.OnlyAnAcceptedCommandSetsBusy : Prop :=
  ∀ s t : State, step s = .next t → s.busy = false → t.busy = true →
    (t.phase = 0x01 ∨ t.phase = 0x07) ∧ s.fault = false ∧ s.drvReady = true ∧ t.port = s.cfgPort ∧
    t.port.distinct = true ∧ 0 < t.port.speed.toInt

/-- The direction of a pin changes only at the four direction requests of INIT, and only for the pin requested (R46, R249). -/
def Obligations.DirectionsChangeOnlyInInit : Prop :=
  ∀ (s t : State) (p : Word), s.lines.wf = true → step s = .next t → t.dir p ≠ s.dir p →
    s.busy = true ∧ (s.phase = 0x01 ∧ p = s.port.cs ∨ s.phase = 0x02 ∧ p = s.port.clk ∨ s.phase = 0x03 ∧ p = s.port.mosi ∨
      s.phase = 0x04 ∧ p = s.port.miso)

/-! ## The half-period and the timer -/

/-- The range of the half-period (R281, R282): at most 500000000 and below 2^29 for every positive speed, and zero exactly above
500000000 Hz. -/
def Obligations.HalfPeriodRange : Prop :=
  ∀ v : Word, 0 < v.toInt →
    (halfPeriod v : Int) = 500000000 / v.toInt ∧ halfPeriod v ≤ 500000000 ∧ halfPeriod v < 2 ^ 29 ∧
    (halfPeriod v = 0 ↔ 500000000 < v.toInt)

/-- The timer's load value (R284): 0 ticks for 0, and otherwise the least whole number of ticks that covers h, plus one; so all but the
first, partial, tick last at least h. That TICK_NS is a whole number of
nanoseconds is the model's choice (log 30). -/
def Obligations.TimerLoadCoversTheHold : Prop :=
  ∀ (p : Params) (h : Nat), holdTicks p 0 = 0 ∧
    (0 < h → 2 ≤ holdTicks p h ∧ h ≤ (holdTicks p h - 1) * p.tickNs ∧ (holdTicks p h - 2) * p.tickNs < h)

/-- The bit driven after `i` shifts is bit 7 - i of the byte (R243). -/
def Obligations.ShiftsSendMostSignificantFirst : Prop :=
  ∀ b : Byte, ∀ i < 8, outBit (shiftOut^[i] b) = serialBit b i ∧
    (outBit (shiftOut^[i] b)).toNat = if b.getLsbD (7 - i) then 1 else 0

/-! ## Whole commands -/

/-- A complete INIT (R207 to R209): with the host away and no driver error, six steps append the six events, leave chip-select and clock
high and the directions set, do not drive mosi, touch no other pin, and end with BUSY = 0 and the port in INITED. The order of the
events within INIT is the spec's own decision (R207, 92_eei_decisions.md D17, log 24). -/
def Obligations.InitRunsToIdle : Prop :=
  ∀ s : State, s.Inv → s.busy = true → s.phase = 0x01 → s.HostQuiet → s.NoDriverError 6 →
    ∃ t, runSteps 6 s = .next t ∧ t.trace = s.trace ++ initEvents s.port ∧ t.status = 0 ∧ t.phase = 0x00 ∧
      t.dir s.port.cs = .output ∧ t.dir s.port.clk = .output ∧ t.dir s.port.mosi = .output ∧ t.dir s.port.miso = .input ∧
      t.level s.port.cs = .high ∧ t.level s.port.clk = .high ∧ t.level s.port.mosi = s.level s.port.mosi ∧
      (∀ q, q ≠ s.port.cs → q ≠ s.port.clk → q ≠ s.port.mosi → q ≠ s.port.miso → t.dir q = s.dir q ∧ t.level q = s.level q) ∧
      (∀ p, p ∈ t.inited ↔ p ∈ s.inited ∨ p = s.port)

/-- Repeated INIT (R210): issued again for the same port it appends the six events again and leaves the line state and INITED as they
were. The order of the events within INIT is the spec's own decision (R207, 92_eei_decisions.md D17, log 24). -/
def Obligations.RepeatedInitIsIdempotent : Prop :=
  ∀ s : State, s.Inv → s.busy = true → s.phase = 0x01 → s.HostQuiet → s.drvReady = true → s.NoDriverError 12 →
    ∃ t u v, runSteps 6 s = .next t ∧ exec .init t = .next u ∧ runSteps 6 u = .next v ∧
      v.trace = t.trace ++ initEvents s.port ∧ v.lines = t.lines ∧ v.inited = t.inited

/-- A complete XFER of n bytes (R242, R244): 2 + 58·n micro-operations append chip-select low, the six events of each bit in byte order
and bit order, and chip-select high, and end with BUSY = 0. -/
def Obligations.XferRunAppendsItsTrace : Prop :=
  ∀ (s : State) (n : Nat), s.XferStart n → s.NoDriverError (2 + 32 * n) →
    ∃ t, runSteps (2 + 58 * n) s = .next t ∧ t.status = 0 ∧ t.phase = 0x00 ∧
      t.trace.length = s.trace.length + 2 + 48 * n ∧
      t.trace = s.trace ++ transferEvents s.port s.half.toNat n (fun j => (s.tx.read j).getD 0) s.sampled

/-- What a complete XFER of n bytes receives (R245, R247): entry j < n is the byte of its eight samples, first bit most significant,
every other entry is invalid, and TXBUF is unchanged. -/
def Obligations.XferRunStoresTheSampledBytes : Prop :=
  ∀ (s : State) (n : Nat), s.XferStart n → s.NoDriverError (2 + 32 * n) →
    ∃ t, runSteps (2 + 58 * n) s = .next t ∧ t.tx = s.tx ∧
      (∀ j < n, ∃ b, t.rx.read j = some b ∧ b.toNat = receivedByte (s.sampled j)) ∧
      (∀ k, n ≤ k → t.rx.valid k = false)

/-- The lines after a complete XFER (R249): chip-select high; clock high when n is above 0 and unchanged when n = 0 (R246, R248: there is no
clock write then); mosi at bit 0 of the last byte (unchanged for n = 0); every direction and every other pin unchanged. -/
def Obligations.XferRunLeavesTheLinesIdle : Prop :=
  ∀ (s : State) (n : Nat), s.XferStart n → s.NoDriverError (2 + 32 * n) →
    ∃ t, runSteps (2 + 58 * n) s = .next t ∧
      t.level s.port.cs = .high ∧ (0 < n → t.level s.port.clk = .high) ∧ (n = 0 → t.level s.port.clk = s.level s.port.clk) ∧
      (∀ m b, n = m + 1 → s.tx.read m = some b → t.level s.port.mosi = (if b.getLsbD 0 then .high else .low)) ∧
      (n = 0 → t.level s.port.mosi = s.level s.port.mosi) ∧
      (∀ q, t.dir q = s.dir q) ∧
      (∀ q, q ≠ s.port.cs → q ≠ s.port.clk → q ≠ s.port.mosi → t.level q = s.level q)

/-- The empty transfer (R248): two micro-operations, a bare chip-select pulse, no RXBUF entry. -/
def Obligations.EmptyTransferPulsesChipSelect : Prop :=
  ∀ s : State, s.XferStart 0 → s.NoDriverError 2 →
    ∃ t, runSteps 2 s = .next t ∧ t.trace = s.trace ++ [.write s.port.cs .low, .write s.port.cs .high] ∧
      t.busy = false ∧ t.phase = 0x00 ∧ ∀ k, t.rx.valid k = false

/-- The loopback identity (R250): when every read answers with the level of mosi at the read, every byte comes back unchanged. -/
def Obligations.LoopbackReturnsTheSentBytes : Prop :=
  ∀ (s : State) (n : Nat), s.XferStart n → s.NoDriverError (2 + 32 * n) → s.Loopback (2 + 58 * n) →
    ∃ t, runSteps (2 + 58 * n) s = .next t ∧ ∀ j < n, t.rx.read j = s.tx.read j ∧ t.rx.valid j = true

/-- MISO held high returns 0xFF for every byte, held low 0x00 (the source's example, 95_test_vectors.md E8; R48, R245). -/
def Obligations.HeldMisoReturnsConstantBytes : Prop :=
  ∀ (s : State) (n : Nat) (l : Level), s.XferStart n → s.NoDriverError (2 + 32 * n) → s.MisoHeld l (2 + 58 * n) →
    ∃ t, runSteps (2 + 58 * n) s = .next t ∧ ∀ j < n, t.rx.read j = some (if l = .high then 0xFF else 0x00)

/-- The wire timing of a transfer's trace (R286), h the half-period: bit m of the transfer has its events at positions 1 + 6m to 6 + 6m,
and every timed reading keeps the bounds on clock low and high time, period, mosi setup and hold, sample delay, chip-select lead and
lag, and the gap between bytes. Times are rational, and a hold with one neighbour
constrains nothing (the model's readings, log 23). -/
def Obligations.WireTimingBounds : Prop :=
  ∀ (p : Port) (h n : Nat) (bytes : Nat → Byte) (ls : Nat → Nat → Level),
    let tr := transferEvents p h n bytes ls
    tr[0]? = some (.write p.cs .low) ∧ tr[1 + 48 * n]? = some (.write p.cs .high) ∧
    (∀ m < 8 * n, tr[1 + 6 * m]? = some (.write p.clk .low) ∧
      tr[2 + 6 * m]? = some (.write p.mosi (lvl (serialBit (bytes (m / 8)) (m % 8)))) ∧
      tr[3 + 6 * m]? = some (.hold h) ∧ tr[4 + 6 * m]? = some (.write p.clk .high) ∧
      tr[5 + 6 * m]? = some (.read p.miso (ls (m / 8) (m % 8))) ∧ tr[6 + 6 * m]? = some (.hold h)) ∧
    ∀ τ : Nat → ℚ, TimedReading tr τ → τ 0 ≤ τ 1 ∧ ∀ m < 8 * n,
      τ (1 + 6 * m) + h ≤ τ (4 + 6 * m) ∧ τ (4 + 6 * m) + h ≤ τ (7 + 6 * m) ∧ τ (1 + 6 * m) + 2 * h ≤ τ (7 + 6 * m) ∧
      τ (2 + 6 * m) + h ≤ τ (4 + 6 * m) ∧ τ (4 + 6 * m) ≤ τ (5 + 6 * m) ∧
      (m + 1 < 8 * n → τ (4 + 6 * m) + h ≤ τ (8 + 6 * m))

/-- The duration of a transfer (R287): every timed reading of the events a complete XFER of n bytes appends lasts at least 16·n·h from the
first to the last. Times are rational (the model's reading, log 23). -/
def Obligations.TransferLastsSixteenHoldsPerByte : Prop :=
  ∀ (s : State) (n : Nat), s.XferStart n → s.NoDriverError (2 + 32 * n) →
    ∃ t, runSteps (2 + 58 * n) s = .next t ∧ ∀ τ, TimedReading (t.trace.drop s.trace.length) τ →
      τ 0 + 16 * n * (s.half.toNat : ℚ) ≤ τ (1 + 48 * n)
end

