-- ==== Sys2Proof/Laws/Decode.lean ====
section
/-! SUPPORT. The fields of a descriptor, and what an offset selects. -/

namespace Sys2Proof

open Machine

@[simp] theorem descWrite_descriptor (w : Bool) (o : BitVec 16) (v : Word) : descWrite (descriptor w o v) = w := by
  simp only [descWrite, descriptor, BitVec.getLsbD_append]
  simp

@[simp] theorem descRes_descriptor (w : Bool) (o : BitVec 16) (v : Word) : descRes (descriptor w o v) = 0 := by
  apply BitVec.eq_of_getLsbD_eq
  intro i hi
  simp only [descRes, descriptor, BitVec.getLsbD_extractLsb', BitVec.getLsbD_append]
  interval_cases i <;> simp

@[simp] theorem descOff_descriptor (w : Bool) (o : BitVec 16) (v : Word) : descOff (descriptor w o v) = o := by
  apply BitVec.eq_of_getLsbD_eq
  intro i hi
  simp only [descOff, descriptor, BitVec.getLsbD_extractLsb', BitVec.getLsbD_append]
  interval_cases i <;> simp

@[simp] theorem descData_descriptor (w : Bool) (o : BitVec 16) (v : Word) : descData (descriptor w o v) = v := by
  apply BitVec.eq_of_getLsbD_eq
  intro i hi
  simp only [descData, descriptor, BitVec.getLsbD_extractLsb', BitVec.getLsbD_append]
  simp [hi]

/-- A descriptor with RES = 0 is made of its other three fields. -/
theorem descriptor_fields {d : Descriptor} (h : descRes d = 0) :
    descriptor (descWrite d) (descOff d) (descData d) = d := by
  have hr : ∀ k < 15, d.getLsbD (48 + k) = false := by
    intro k hk
    have := congrArg (fun b => b.getLsbD k) h
    simpa [descRes, hk] using this
  apply BitVec.eq_of_getLsbD_eq
  intro i hi
  simp only [descriptor, descWrite, descOff, descData, BitVec.getLsbD_append, BitVec.getLsbD_extractLsb']
  by_cases h1 : i < 32
  · simp [h1]
  by_cases h2 : i < 48
  · simp [h1, show i - 32 < 16 by omega, show 32 + (i - 32) = i by omega]
  by_cases h3 : i < 63
  · have := hr (i - 48) (by omega)
    rw [show 48 + (i - 48) = i by omega] at this
    simp [h1, show ¬ i - 32 < 16 by omega, show i - 32 - 16 < 15 by omega, this]
  · have : i = 63 := by omega
    subst this; simp

@[simp] theorem selectReg_txOffset (k : BitVec 10) : selectReg (txOffset k) = .txbuf k := by
  have h0 : (txOffset k).extractLsb' 0 2 = 0#2 := by
    apply BitVec.eq_of_getLsbD_eq
    intro i hi
    simp only [txOffset, BitVec.getLsbD_extractLsb', BitVec.getLsbD_append]
    interval_cases i <;> simp
  have h1 : (txOffset k).extractLsb' 14 2 = 0#2 := by
    apply BitVec.eq_of_getLsbD_eq
    intro i hi
    simp only [txOffset, BitVec.getLsbD_extractLsb', BitVec.getLsbD_append]
    interval_cases i <;> simp
  have h2 : (txOffset k).extractLsb' 12 2 = 1#2 := by
    apply BitVec.eq_of_getLsbD_eq
    intro i hi
    simp only [txOffset, BitVec.getLsbD_extractLsb', BitVec.getLsbD_append]
    interval_cases i <;> simp
  have h3 : (txOffset k).extractLsb' 2 10 = k := by
    apply BitVec.eq_of_getLsbD_eq
    intro i hi
    simp only [txOffset, BitVec.getLsbD_extractLsb', BitVec.getLsbD_append]
    interval_cases i <;> simp
  simp [selectReg, h0, h1, h2, h3]

@[simp] theorem selectReg_rxOffset (k : BitVec 10) : selectReg (rxOffset k) = .rxbuf k := by
  have h0 : (rxOffset k).extractLsb' 0 2 = 0#2 := by
    apply BitVec.eq_of_getLsbD_eq
    intro i hi
    simp only [rxOffset, BitVec.getLsbD_extractLsb', BitVec.getLsbD_append]
    interval_cases i <;> simp
  have h1 : (rxOffset k).extractLsb' 14 2 = 0#2 := by
    apply BitVec.eq_of_getLsbD_eq
    intro i hi
    simp only [rxOffset, BitVec.getLsbD_extractLsb', BitVec.getLsbD_append]
    interval_cases i <;> simp
  have h2 : (rxOffset k).extractLsb' 12 2 = 2#2 := by
    apply BitVec.eq_of_getLsbD_eq
    intro i hi
    simp only [rxOffset, BitVec.getLsbD_extractLsb', BitVec.getLsbD_append]
    interval_cases i <;> simp
  have h3 : (rxOffset k).extractLsb' 2 10 = k := by
    apply BitVec.eq_of_getLsbD_eq
    intro i hi
    simp only [rxOffset, BitVec.getLsbD_extractLsb', BitVec.getLsbD_append]
    interval_cases i <;> simp
  simp [selectReg, h0, h1, h2, h3]

@[simp] theorem selectReg_offset (r : CtlReg) : selectReg r.offset = .ctl r := by cases r <;> decide

/-- A descriptor decodes to the access its fields name, when it spells one. -/
theorem decodeBus_descriptor {w : Bool} (o : BitVec 16) {v : Word} (h : w = true ∨ v = 0) :
    decodeBus (descriptor w o v) = .instr (accessInstr w o v) := by
  simp only [decodeBus, descRes_descriptor, descWrite_descriptor, descOff_descriptor, descData_descriptor]
  rcases h with rfl | rfl <;> simp

/-- The write bit, the offset and the data of a descriptor, as one number (30_encoding.md R111). -/
theorem and_descriptor_control (w : Bool) (o : BitVec 16) (v : Word) :
    descriptor w o v &&& 0xFFFFFFFF00000000#64 = descriptor w o 0 := by
  apply BitVec.eq_of_getLsbD_eq
  intro i hi
  simp only [descriptor, BitVec.getLsbD_and, BitVec.getLsbD_append]
  interval_cases i <;> simp

/-- The buffer rows' mask 0xFFFFF00300000000 leaves the window of the buffer (spec/opcode_table.json). -/
theorem and_descriptor_txOffset (w : Bool) (k : BitVec 10) (v : Word) :
    descriptor w (txOffset k) v &&& 0xFFFFF00300000000#64 = descriptor w 0x1000 0 := by
  apply BitVec.eq_of_getLsbD_eq
  intro i hi
  simp only [descriptor, txOffset, BitVec.getLsbD_and, BitVec.getLsbD_append]
  interval_cases i <;> simp

theorem and_descriptor_rxOffset (w : Bool) (k : BitVec 10) (v : Word) :
    descriptor w (rxOffset k) v &&& 0xFFFFF00300000000#64 = descriptor w 0x2000 0 := by
  apply BitVec.eq_of_getLsbD_eq
  intro i hi
  simp only [descriptor, rxOffset, BitVec.getLsbD_and, BitVec.getLsbD_append]
  interval_cases i <;> simp

end Sys2Proof
end

