-- ==== Sys2Proof/Laws/State.lean ====
section
/-! SUPPORT. For each update of the state, what each field holds after it: one lemma per field per update, all true by rfl. -/

namespace Sys2Proof.Machine

/-! setBusy -/

@[simp] theorem State.setBusy_params (s : State) : (s.setBusy).params = s.params := rfl
@[simp] theorem State.setBusy_cfgCs (s : State) : (s.setBusy).cfgCs = s.cfgCs := rfl
@[simp] theorem State.setBusy_cfgClk (s : State) : (s.setBusy).cfgClk = s.cfgClk := rfl
@[simp] theorem State.setBusy_cfgMosi (s : State) : (s.setBusy).cfgMosi = s.cfgMosi := rfl
@[simp] theorem State.setBusy_cfgMiso (s : State) : (s.setBusy).cfgMiso = s.cfgMiso := rfl
@[simp] theorem State.setBusy_cfgSpeed (s : State) : (s.setBusy).cfgSpeed = s.cfgSpeed := rfl
@[simp] theorem State.setBusy_len (s : State) : (s.setBusy).len = s.len := rfl
@[simp] theorem State.setBusy_busy (s : State) : (s.setBusy).busy = true := rfl
@[simp] theorem State.setBusy_fault (s : State) : (s.setBusy).fault = s.fault := rfl
@[simp] theorem State.setBusy_fcode (s : State) : (s.setBusy).fcode = s.fcode := rfl
@[simp] theorem State.setBusy_tx (s : State) : (s.setBusy).tx = s.tx := rfl
@[simp] theorem State.setBusy_rx (s : State) : (s.setBusy).rx = s.rx := rfl
@[simp] theorem State.setBusy_phase (s : State) : (s.setBusy).phase = s.phase := rfl
@[simp] theorem State.setBusy_port (s : State) : (s.setBusy).port = s.port := rfl
@[simp] theorem State.setBusy_nlen (s : State) : (s.setBusy).nlen = s.nlen := rfl
@[simp] theorem State.setBusy_j (s : State) : (s.setBusy).j = s.j := rfl
@[simp] theorem State.setBusy_bitn (s : State) : (s.setBusy).bitn = s.bitn := rfl
@[simp] theorem State.setBusy_outsr (s : State) : (s.setBusy).outsr = s.outsr := rfl
@[simp] theorem State.setBusy_insr (s : State) : (s.setBusy).insr = s.insr := rfl
@[simp] theorem State.setBusy_half (s : State) : (s.setBusy).half = s.half := rfl
@[simp] theorem State.setBusy_timer (s : State) : (s.setBusy).timer = s.timer := rfl
@[simp] theorem State.setBusy_drvReady (s : State) : (s.setBusy).drvReady = s.drvReady := rfl
@[simp] theorem State.setBusy_lines (s : State) : (s.setBusy).lines = s.lines := rfl
@[simp] theorem State.setBusy_trace (s : State) : (s.setBusy).trace = s.trace := rfl
@[simp] theorem State.setBusy_inited (s : State) : (s.setBusy).inited = s.inited := rfl
@[simp] theorem State.setBusy_faulted (s : State) : (s.setBusy).faulted = s.faulted := rfl
@[simp] theorem State.setBusy_faultPhase (s : State) : (s.setBusy).faultPhase = s.faultPhase := rfl
@[simp] theorem State.setBusy_answer (s : State) : (s.setBusy).answer = s.answer := rfl
@[simp] theorem State.setBusy_inbox (s : State) : (s.setBusy).inbox = s.inbox := rfl
@[simp] theorem State.setBusy_schedule (s : State) : (s.setBusy).schedule = s.schedule := rfl
@[simp] theorem State.setBusy_turns (s : State) : (s.setBusy).turns = s.turns := rfl
@[simp] theorem State.setBusy_answers (s : State) : (s.setBusy).answers = s.answers := rfl
@[simp] theorem State.setBusy_draws (s : State) : (s.setBusy).draws = s.draws := rfl

/-! clearBusy -/

@[simp] theorem State.clearBusy_params (s : State) : (s.clearBusy).params = s.params := rfl
@[simp] theorem State.clearBusy_cfgCs (s : State) : (s.clearBusy).cfgCs = s.cfgCs := rfl
@[simp] theorem State.clearBusy_cfgClk (s : State) : (s.clearBusy).cfgClk = s.cfgClk := rfl
@[simp] theorem State.clearBusy_cfgMosi (s : State) : (s.clearBusy).cfgMosi = s.cfgMosi := rfl
@[simp] theorem State.clearBusy_cfgMiso (s : State) : (s.clearBusy).cfgMiso = s.cfgMiso := rfl
@[simp] theorem State.clearBusy_cfgSpeed (s : State) : (s.clearBusy).cfgSpeed = s.cfgSpeed := rfl
@[simp] theorem State.clearBusy_len (s : State) : (s.clearBusy).len = s.len := rfl
@[simp] theorem State.clearBusy_busy (s : State) : (s.clearBusy).busy = false := rfl
@[simp] theorem State.clearBusy_fault (s : State) : (s.clearBusy).fault = s.fault := rfl
@[simp] theorem State.clearBusy_fcode (s : State) : (s.clearBusy).fcode = s.fcode := rfl
@[simp] theorem State.clearBusy_tx (s : State) : (s.clearBusy).tx = s.tx := rfl
@[simp] theorem State.clearBusy_rx (s : State) : (s.clearBusy).rx = s.rx := rfl
@[simp] theorem State.clearBusy_phase (s : State) : (s.clearBusy).phase = s.phase := rfl
@[simp] theorem State.clearBusy_port (s : State) : (s.clearBusy).port = s.port := rfl
@[simp] theorem State.clearBusy_nlen (s : State) : (s.clearBusy).nlen = s.nlen := rfl
@[simp] theorem State.clearBusy_j (s : State) : (s.clearBusy).j = s.j := rfl
@[simp] theorem State.clearBusy_bitn (s : State) : (s.clearBusy).bitn = s.bitn := rfl
@[simp] theorem State.clearBusy_outsr (s : State) : (s.clearBusy).outsr = s.outsr := rfl
@[simp] theorem State.clearBusy_insr (s : State) : (s.clearBusy).insr = s.insr := rfl
@[simp] theorem State.clearBusy_half (s : State) : (s.clearBusy).half = s.half := rfl
@[simp] theorem State.clearBusy_timer (s : State) : (s.clearBusy).timer = s.timer := rfl
@[simp] theorem State.clearBusy_drvReady (s : State) : (s.clearBusy).drvReady = s.drvReady := rfl
@[simp] theorem State.clearBusy_lines (s : State) : (s.clearBusy).lines = s.lines := rfl
@[simp] theorem State.clearBusy_trace (s : State) : (s.clearBusy).trace = s.trace := rfl
@[simp] theorem State.clearBusy_inited (s : State) : (s.clearBusy).inited = s.inited := rfl
@[simp] theorem State.clearBusy_faulted (s : State) : (s.clearBusy).faulted = s.faulted := rfl
@[simp] theorem State.clearBusy_faultPhase (s : State) : (s.clearBusy).faultPhase = s.faultPhase := rfl
@[simp] theorem State.clearBusy_answer (s : State) : (s.clearBusy).answer = s.answer := rfl
@[simp] theorem State.clearBusy_inbox (s : State) : (s.clearBusy).inbox = s.inbox := rfl
@[simp] theorem State.clearBusy_schedule (s : State) : (s.clearBusy).schedule = s.schedule := rfl
@[simp] theorem State.clearBusy_turns (s : State) : (s.clearBusy).turns = s.turns := rfl
@[simp] theorem State.clearBusy_answers (s : State) : (s.clearBusy).answers = s.answers := rfl
@[simp] theorem State.clearBusy_draws (s : State) : (s.clearBusy).draws = s.draws := rfl

/-! faultFlags -/

@[simp] theorem State.faultFlags_params (s : State) (c : FaultCode) : (s.faultFlags c).params = s.params := rfl
@[simp] theorem State.faultFlags_cfgCs (s : State) (c : FaultCode) : (s.faultFlags c).cfgCs = s.cfgCs := rfl
@[simp] theorem State.faultFlags_cfgClk (s : State) (c : FaultCode) : (s.faultFlags c).cfgClk = s.cfgClk := rfl
@[simp] theorem State.faultFlags_cfgMosi (s : State) (c : FaultCode) : (s.faultFlags c).cfgMosi = s.cfgMosi := rfl
@[simp] theorem State.faultFlags_cfgMiso (s : State) (c : FaultCode) : (s.faultFlags c).cfgMiso = s.cfgMiso := rfl
@[simp] theorem State.faultFlags_cfgSpeed (s : State) (c : FaultCode) : (s.faultFlags c).cfgSpeed = s.cfgSpeed := rfl
@[simp] theorem State.faultFlags_len (s : State) (c : FaultCode) : (s.faultFlags c).len = s.len := rfl
@[simp] theorem State.faultFlags_busy (s : State) (c : FaultCode) : (s.faultFlags c).busy = false := rfl
@[simp] theorem State.faultFlags_fault (s : State) (c : FaultCode) : (s.faultFlags c).fault = true := rfl
@[simp] theorem State.faultFlags_fcode (s : State) (c : FaultCode) : (s.faultFlags c).fcode = if s.fault then s.fcode else c.code := rfl
@[simp] theorem State.faultFlags_tx (s : State) (c : FaultCode) : (s.faultFlags c).tx = s.tx := rfl
@[simp] theorem State.faultFlags_rx (s : State) (c : FaultCode) : (s.faultFlags c).rx = s.rx := rfl
@[simp] theorem State.faultFlags_phase (s : State) (c : FaultCode) : (s.faultFlags c).phase = s.phase := rfl
@[simp] theorem State.faultFlags_port (s : State) (c : FaultCode) : (s.faultFlags c).port = s.port := rfl
@[simp] theorem State.faultFlags_nlen (s : State) (c : FaultCode) : (s.faultFlags c).nlen = s.nlen := rfl
@[simp] theorem State.faultFlags_j (s : State) (c : FaultCode) : (s.faultFlags c).j = s.j := rfl
@[simp] theorem State.faultFlags_bitn (s : State) (c : FaultCode) : (s.faultFlags c).bitn = s.bitn := rfl
@[simp] theorem State.faultFlags_outsr (s : State) (c : FaultCode) : (s.faultFlags c).outsr = s.outsr := rfl
@[simp] theorem State.faultFlags_insr (s : State) (c : FaultCode) : (s.faultFlags c).insr = s.insr := rfl
@[simp] theorem State.faultFlags_half (s : State) (c : FaultCode) : (s.faultFlags c).half = s.half := rfl
@[simp] theorem State.faultFlags_timer (s : State) (c : FaultCode) : (s.faultFlags c).timer = s.timer := rfl
@[simp] theorem State.faultFlags_drvReady (s : State) (c : FaultCode) : (s.faultFlags c).drvReady = s.drvReady := rfl
@[simp] theorem State.faultFlags_lines (s : State) (c : FaultCode) : (s.faultFlags c).lines = s.lines := rfl
@[simp] theorem State.faultFlags_trace (s : State) (c : FaultCode) : (s.faultFlags c).trace = s.trace := rfl
@[simp] theorem State.faultFlags_inited (s : State) (c : FaultCode) : (s.faultFlags c).inited = s.inited := rfl
@[simp] theorem State.faultFlags_faulted (s : State) (c : FaultCode) : (s.faultFlags c).faulted = true := rfl
@[simp] theorem State.faultFlags_faultPhase (s : State) (c : FaultCode) : (s.faultFlags c).faultPhase = s.faultPhase := rfl
@[simp] theorem State.faultFlags_answer (s : State) (c : FaultCode) : (s.faultFlags c).answer = s.answer := rfl
@[simp] theorem State.faultFlags_inbox (s : State) (c : FaultCode) : (s.faultFlags c).inbox = s.inbox := rfl
@[simp] theorem State.faultFlags_schedule (s : State) (c : FaultCode) : (s.faultFlags c).schedule = s.schedule := rfl
@[simp] theorem State.faultFlags_turns (s : State) (c : FaultCode) : (s.faultFlags c).turns = s.turns := rfl
@[simp] theorem State.faultFlags_answers (s : State) (c : FaultCode) : (s.faultFlags c).answers = s.answers := rfl
@[simp] theorem State.faultFlags_draws (s : State) (c : FaultCode) : (s.faultFlags c).draws = s.draws := rfl

/-! resetFlags -/

@[simp] theorem State.resetFlags_params (s : State) : (s.resetFlags).params = s.params := rfl
@[simp] theorem State.resetFlags_cfgCs (s : State) : (s.resetFlags).cfgCs = s.cfgCs := rfl
@[simp] theorem State.resetFlags_cfgClk (s : State) : (s.resetFlags).cfgClk = s.cfgClk := rfl
@[simp] theorem State.resetFlags_cfgMosi (s : State) : (s.resetFlags).cfgMosi = s.cfgMosi := rfl
@[simp] theorem State.resetFlags_cfgMiso (s : State) : (s.resetFlags).cfgMiso = s.cfgMiso := rfl
@[simp] theorem State.resetFlags_cfgSpeed (s : State) : (s.resetFlags).cfgSpeed = s.cfgSpeed := rfl
@[simp] theorem State.resetFlags_len (s : State) : (s.resetFlags).len = s.len := rfl
@[simp] theorem State.resetFlags_busy (s : State) : (s.resetFlags).busy = false := rfl
@[simp] theorem State.resetFlags_fault (s : State) : (s.resetFlags).fault = false := rfl
@[simp] theorem State.resetFlags_fcode (s : State) : (s.resetFlags).fcode = 0 := rfl
@[simp] theorem State.resetFlags_tx (s : State) : (s.resetFlags).tx = s.tx := rfl
@[simp] theorem State.resetFlags_rx (s : State) : (s.resetFlags).rx = s.rx := rfl
@[simp] theorem State.resetFlags_phase (s : State) : (s.resetFlags).phase = s.phase := rfl
@[simp] theorem State.resetFlags_port (s : State) : (s.resetFlags).port = s.port := rfl
@[simp] theorem State.resetFlags_nlen (s : State) : (s.resetFlags).nlen = s.nlen := rfl
@[simp] theorem State.resetFlags_j (s : State) : (s.resetFlags).j = s.j := rfl
@[simp] theorem State.resetFlags_bitn (s : State) : (s.resetFlags).bitn = s.bitn := rfl
@[simp] theorem State.resetFlags_outsr (s : State) : (s.resetFlags).outsr = s.outsr := rfl
@[simp] theorem State.resetFlags_insr (s : State) : (s.resetFlags).insr = s.insr := rfl
@[simp] theorem State.resetFlags_half (s : State) : (s.resetFlags).half = s.half := rfl
@[simp] theorem State.resetFlags_timer (s : State) : (s.resetFlags).timer = s.timer := rfl
@[simp] theorem State.resetFlags_drvReady (s : State) : (s.resetFlags).drvReady = s.drvReady := rfl
@[simp] theorem State.resetFlags_lines (s : State) : (s.resetFlags).lines = s.lines := rfl
@[simp] theorem State.resetFlags_trace (s : State) : (s.resetFlags).trace = s.trace := rfl
@[simp] theorem State.resetFlags_inited (s : State) : (s.resetFlags).inited = s.inited := rfl
@[simp] theorem State.resetFlags_faulted (s : State) : (s.resetFlags).faulted = false := rfl
@[simp] theorem State.resetFlags_faultPhase (s : State) : (s.resetFlags).faultPhase = s.faultPhase := rfl
@[simp] theorem State.resetFlags_answer (s : State) : (s.resetFlags).answer = s.answer := rfl
@[simp] theorem State.resetFlags_inbox (s : State) : (s.resetFlags).inbox = s.inbox := rfl
@[simp] theorem State.resetFlags_schedule (s : State) : (s.resetFlags).schedule = s.schedule := rfl
@[simp] theorem State.resetFlags_turns (s : State) : (s.resetFlags).turns = s.turns := rfl
@[simp] theorem State.resetFlags_answers (s : State) : (s.resetFlags).answers = s.answers := rfl
@[simp] theorem State.resetFlags_draws (s : State) : (s.resetFlags).draws = s.draws := rfl

/-! setDir -/

@[simp] theorem State.setDir_params (s : State) (pin : Word) (d : LineDir) : (s.setDir pin d).params = s.params := rfl
@[simp] theorem State.setDir_cfgCs (s : State) (pin : Word) (d : LineDir) : (s.setDir pin d).cfgCs = s.cfgCs := rfl
@[simp] theorem State.setDir_cfgClk (s : State) (pin : Word) (d : LineDir) : (s.setDir pin d).cfgClk = s.cfgClk := rfl
@[simp] theorem State.setDir_cfgMosi (s : State) (pin : Word) (d : LineDir) : (s.setDir pin d).cfgMosi = s.cfgMosi := rfl
@[simp] theorem State.setDir_cfgMiso (s : State) (pin : Word) (d : LineDir) : (s.setDir pin d).cfgMiso = s.cfgMiso := rfl
@[simp] theorem State.setDir_cfgSpeed (s : State) (pin : Word) (d : LineDir) : (s.setDir pin d).cfgSpeed = s.cfgSpeed := rfl
@[simp] theorem State.setDir_len (s : State) (pin : Word) (d : LineDir) : (s.setDir pin d).len = s.len := rfl
@[simp] theorem State.setDir_busy (s : State) (pin : Word) (d : LineDir) : (s.setDir pin d).busy = s.busy := rfl
@[simp] theorem State.setDir_fault (s : State) (pin : Word) (d : LineDir) : (s.setDir pin d).fault = s.fault := rfl
@[simp] theorem State.setDir_fcode (s : State) (pin : Word) (d : LineDir) : (s.setDir pin d).fcode = s.fcode := rfl
@[simp] theorem State.setDir_tx (s : State) (pin : Word) (d : LineDir) : (s.setDir pin d).tx = s.tx := rfl
@[simp] theorem State.setDir_rx (s : State) (pin : Word) (d : LineDir) : (s.setDir pin d).rx = s.rx := rfl
@[simp] theorem State.setDir_phase (s : State) (pin : Word) (d : LineDir) : (s.setDir pin d).phase = s.phase := rfl
@[simp] theorem State.setDir_port (s : State) (pin : Word) (d : LineDir) : (s.setDir pin d).port = s.port := rfl
@[simp] theorem State.setDir_nlen (s : State) (pin : Word) (d : LineDir) : (s.setDir pin d).nlen = s.nlen := rfl
@[simp] theorem State.setDir_j (s : State) (pin : Word) (d : LineDir) : (s.setDir pin d).j = s.j := rfl
@[simp] theorem State.setDir_bitn (s : State) (pin : Word) (d : LineDir) : (s.setDir pin d).bitn = s.bitn := rfl
@[simp] theorem State.setDir_outsr (s : State) (pin : Word) (d : LineDir) : (s.setDir pin d).outsr = s.outsr := rfl
@[simp] theorem State.setDir_insr (s : State) (pin : Word) (d : LineDir) : (s.setDir pin d).insr = s.insr := rfl
@[simp] theorem State.setDir_half (s : State) (pin : Word) (d : LineDir) : (s.setDir pin d).half = s.half := rfl
@[simp] theorem State.setDir_timer (s : State) (pin : Word) (d : LineDir) : (s.setDir pin d).timer = s.timer := rfl
@[simp] theorem State.setDir_drvReady (s : State) (pin : Word) (d : LineDir) : (s.setDir pin d).drvReady = s.drvReady := rfl
@[simp] theorem State.setDir_lines (s : State) (pin : Word) (d : LineDir) : (s.setDir pin d).lines = s.lines.store pin ⟨d, s.level pin⟩ := rfl
@[simp] theorem State.setDir_trace (s : State) (pin : Word) (d : LineDir) : (s.setDir pin d).trace = s.trace := rfl
@[simp] theorem State.setDir_inited (s : State) (pin : Word) (d : LineDir) : (s.setDir pin d).inited = s.inited := rfl
@[simp] theorem State.setDir_faulted (s : State) (pin : Word) (d : LineDir) : (s.setDir pin d).faulted = s.faulted := rfl
@[simp] theorem State.setDir_faultPhase (s : State) (pin : Word) (d : LineDir) : (s.setDir pin d).faultPhase = s.faultPhase := rfl
@[simp] theorem State.setDir_answer (s : State) (pin : Word) (d : LineDir) : (s.setDir pin d).answer = s.answer := rfl
@[simp] theorem State.setDir_inbox (s : State) (pin : Word) (d : LineDir) : (s.setDir pin d).inbox = s.inbox := rfl
@[simp] theorem State.setDir_schedule (s : State) (pin : Word) (d : LineDir) : (s.setDir pin d).schedule = s.schedule := rfl
@[simp] theorem State.setDir_turns (s : State) (pin : Word) (d : LineDir) : (s.setDir pin d).turns = s.turns := rfl
@[simp] theorem State.setDir_answers (s : State) (pin : Word) (d : LineDir) : (s.setDir pin d).answers = s.answers := rfl
@[simp] theorem State.setDir_draws (s : State) (pin : Word) (d : LineDir) : (s.setDir pin d).draws = s.draws := rfl

/-! setLevel -/

@[simp] theorem State.setLevel_params (s : State) (pin : Word) (l : LineLevel) : (s.setLevel pin l).params = s.params := rfl
@[simp] theorem State.setLevel_cfgCs (s : State) (pin : Word) (l : LineLevel) : (s.setLevel pin l).cfgCs = s.cfgCs := rfl
@[simp] theorem State.setLevel_cfgClk (s : State) (pin : Word) (l : LineLevel) : (s.setLevel pin l).cfgClk = s.cfgClk := rfl
@[simp] theorem State.setLevel_cfgMosi (s : State) (pin : Word) (l : LineLevel) : (s.setLevel pin l).cfgMosi = s.cfgMosi := rfl
@[simp] theorem State.setLevel_cfgMiso (s : State) (pin : Word) (l : LineLevel) : (s.setLevel pin l).cfgMiso = s.cfgMiso := rfl
@[simp] theorem State.setLevel_cfgSpeed (s : State) (pin : Word) (l : LineLevel) : (s.setLevel pin l).cfgSpeed = s.cfgSpeed := rfl
@[simp] theorem State.setLevel_len (s : State) (pin : Word) (l : LineLevel) : (s.setLevel pin l).len = s.len := rfl
@[simp] theorem State.setLevel_busy (s : State) (pin : Word) (l : LineLevel) : (s.setLevel pin l).busy = s.busy := rfl
@[simp] theorem State.setLevel_fault (s : State) (pin : Word) (l : LineLevel) : (s.setLevel pin l).fault = s.fault := rfl
@[simp] theorem State.setLevel_fcode (s : State) (pin : Word) (l : LineLevel) : (s.setLevel pin l).fcode = s.fcode := rfl
@[simp] theorem State.setLevel_tx (s : State) (pin : Word) (l : LineLevel) : (s.setLevel pin l).tx = s.tx := rfl
@[simp] theorem State.setLevel_rx (s : State) (pin : Word) (l : LineLevel) : (s.setLevel pin l).rx = s.rx := rfl
@[simp] theorem State.setLevel_phase (s : State) (pin : Word) (l : LineLevel) : (s.setLevel pin l).phase = s.phase := rfl
@[simp] theorem State.setLevel_port (s : State) (pin : Word) (l : LineLevel) : (s.setLevel pin l).port = s.port := rfl
@[simp] theorem State.setLevel_nlen (s : State) (pin : Word) (l : LineLevel) : (s.setLevel pin l).nlen = s.nlen := rfl
@[simp] theorem State.setLevel_j (s : State) (pin : Word) (l : LineLevel) : (s.setLevel pin l).j = s.j := rfl
@[simp] theorem State.setLevel_bitn (s : State) (pin : Word) (l : LineLevel) : (s.setLevel pin l).bitn = s.bitn := rfl
@[simp] theorem State.setLevel_outsr (s : State) (pin : Word) (l : LineLevel) : (s.setLevel pin l).outsr = s.outsr := rfl
@[simp] theorem State.setLevel_insr (s : State) (pin : Word) (l : LineLevel) : (s.setLevel pin l).insr = s.insr := rfl
@[simp] theorem State.setLevel_half (s : State) (pin : Word) (l : LineLevel) : (s.setLevel pin l).half = s.half := rfl
@[simp] theorem State.setLevel_timer (s : State) (pin : Word) (l : LineLevel) : (s.setLevel pin l).timer = s.timer := rfl
@[simp] theorem State.setLevel_drvReady (s : State) (pin : Word) (l : LineLevel) : (s.setLevel pin l).drvReady = s.drvReady := rfl
@[simp] theorem State.setLevel_lines (s : State) (pin : Word) (l : LineLevel) : (s.setLevel pin l).lines = s.lines.store pin ⟨s.dir pin, l⟩ := rfl
@[simp] theorem State.setLevel_trace (s : State) (pin : Word) (l : LineLevel) : (s.setLevel pin l).trace = s.trace := rfl
@[simp] theorem State.setLevel_inited (s : State) (pin : Word) (l : LineLevel) : (s.setLevel pin l).inited = s.inited := rfl
@[simp] theorem State.setLevel_faulted (s : State) (pin : Word) (l : LineLevel) : (s.setLevel pin l).faulted = s.faulted := rfl
@[simp] theorem State.setLevel_faultPhase (s : State) (pin : Word) (l : LineLevel) : (s.setLevel pin l).faultPhase = s.faultPhase := rfl
@[simp] theorem State.setLevel_answer (s : State) (pin : Word) (l : LineLevel) : (s.setLevel pin l).answer = s.answer := rfl
@[simp] theorem State.setLevel_inbox (s : State) (pin : Word) (l : LineLevel) : (s.setLevel pin l).inbox = s.inbox := rfl
@[simp] theorem State.setLevel_schedule (s : State) (pin : Word) (l : LineLevel) : (s.setLevel pin l).schedule = s.schedule := rfl
@[simp] theorem State.setLevel_turns (s : State) (pin : Word) (l : LineLevel) : (s.setLevel pin l).turns = s.turns := rfl
@[simp] theorem State.setLevel_answers (s : State) (pin : Word) (l : LineLevel) : (s.setLevel pin l).answers = s.answers := rfl
@[simp] theorem State.setLevel_draws (s : State) (pin : Word) (l : LineLevel) : (s.setLevel pin l).draws = s.draws := rfl

/-! record -/

@[simp] theorem State.record_params (s : State) (e : Event) : (s.record e).params = s.params := rfl
@[simp] theorem State.record_cfgCs (s : State) (e : Event) : (s.record e).cfgCs = s.cfgCs := rfl
@[simp] theorem State.record_cfgClk (s : State) (e : Event) : (s.record e).cfgClk = s.cfgClk := rfl
@[simp] theorem State.record_cfgMosi (s : State) (e : Event) : (s.record e).cfgMosi = s.cfgMosi := rfl
@[simp] theorem State.record_cfgMiso (s : State) (e : Event) : (s.record e).cfgMiso = s.cfgMiso := rfl
@[simp] theorem State.record_cfgSpeed (s : State) (e : Event) : (s.record e).cfgSpeed = s.cfgSpeed := rfl
@[simp] theorem State.record_len (s : State) (e : Event) : (s.record e).len = s.len := rfl
@[simp] theorem State.record_busy (s : State) (e : Event) : (s.record e).busy = s.busy := rfl
@[simp] theorem State.record_fault (s : State) (e : Event) : (s.record e).fault = s.fault := rfl
@[simp] theorem State.record_fcode (s : State) (e : Event) : (s.record e).fcode = s.fcode := rfl
@[simp] theorem State.record_tx (s : State) (e : Event) : (s.record e).tx = s.tx := rfl
@[simp] theorem State.record_rx (s : State) (e : Event) : (s.record e).rx = s.rx := rfl
@[simp] theorem State.record_phase (s : State) (e : Event) : (s.record e).phase = s.phase := rfl
@[simp] theorem State.record_port (s : State) (e : Event) : (s.record e).port = s.port := rfl
@[simp] theorem State.record_nlen (s : State) (e : Event) : (s.record e).nlen = s.nlen := rfl
@[simp] theorem State.record_j (s : State) (e : Event) : (s.record e).j = s.j := rfl
@[simp] theorem State.record_bitn (s : State) (e : Event) : (s.record e).bitn = s.bitn := rfl
@[simp] theorem State.record_outsr (s : State) (e : Event) : (s.record e).outsr = s.outsr := rfl
@[simp] theorem State.record_insr (s : State) (e : Event) : (s.record e).insr = s.insr := rfl
@[simp] theorem State.record_half (s : State) (e : Event) : (s.record e).half = s.half := rfl
@[simp] theorem State.record_timer (s : State) (e : Event) : (s.record e).timer = s.timer := rfl
@[simp] theorem State.record_drvReady (s : State) (e : Event) : (s.record e).drvReady = s.drvReady := rfl
@[simp] theorem State.record_lines (s : State) (e : Event) : (s.record e).lines = s.lines := rfl
@[simp] theorem State.record_trace (s : State) (e : Event) : (s.record e).trace = s.trace ++ [e] := rfl
@[simp] theorem State.record_inited (s : State) (e : Event) : (s.record e).inited = s.inited := rfl
@[simp] theorem State.record_faulted (s : State) (e : Event) : (s.record e).faulted = s.faulted := rfl
@[simp] theorem State.record_faultPhase (s : State) (e : Event) : (s.record e).faultPhase = s.faultPhase := rfl
@[simp] theorem State.record_answer (s : State) (e : Event) : (s.record e).answer = s.answer := rfl
@[simp] theorem State.record_inbox (s : State) (e : Event) : (s.record e).inbox = s.inbox := rfl
@[simp] theorem State.record_schedule (s : State) (e : Event) : (s.record e).schedule = s.schedule := rfl
@[simp] theorem State.record_turns (s : State) (e : Event) : (s.record e).turns = s.turns := rfl
@[simp] theorem State.record_answers (s : State) (e : Event) : (s.record e).answers = s.answers := rfl
@[simp] theorem State.record_draws (s : State) (e : Event) : (s.record e).draws = s.draws := rfl

/-! goto -/

@[simp] theorem State.goto_params (s : State) (p : BitVec 5) : (s.goto p).params = s.params := rfl
@[simp] theorem State.goto_cfgCs (s : State) (p : BitVec 5) : (s.goto p).cfgCs = s.cfgCs := rfl
@[simp] theorem State.goto_cfgClk (s : State) (p : BitVec 5) : (s.goto p).cfgClk = s.cfgClk := rfl
@[simp] theorem State.goto_cfgMosi (s : State) (p : BitVec 5) : (s.goto p).cfgMosi = s.cfgMosi := rfl
@[simp] theorem State.goto_cfgMiso (s : State) (p : BitVec 5) : (s.goto p).cfgMiso = s.cfgMiso := rfl
@[simp] theorem State.goto_cfgSpeed (s : State) (p : BitVec 5) : (s.goto p).cfgSpeed = s.cfgSpeed := rfl
@[simp] theorem State.goto_len (s : State) (p : BitVec 5) : (s.goto p).len = s.len := rfl
@[simp] theorem State.goto_busy (s : State) (p : BitVec 5) : (s.goto p).busy = s.busy := rfl
@[simp] theorem State.goto_fault (s : State) (p : BitVec 5) : (s.goto p).fault = s.fault := rfl
@[simp] theorem State.goto_fcode (s : State) (p : BitVec 5) : (s.goto p).fcode = s.fcode := rfl
@[simp] theorem State.goto_tx (s : State) (p : BitVec 5) : (s.goto p).tx = s.tx := rfl
@[simp] theorem State.goto_rx (s : State) (p : BitVec 5) : (s.goto p).rx = s.rx := rfl
@[simp] theorem State.goto_phase (s : State) (p : BitVec 5) : (s.goto p).phase = p := rfl
@[simp] theorem State.goto_port (s : State) (p : BitVec 5) : (s.goto p).port = s.port := rfl
@[simp] theorem State.goto_nlen (s : State) (p : BitVec 5) : (s.goto p).nlen = s.nlen := rfl
@[simp] theorem State.goto_j (s : State) (p : BitVec 5) : (s.goto p).j = s.j := rfl
@[simp] theorem State.goto_bitn (s : State) (p : BitVec 5) : (s.goto p).bitn = s.bitn := rfl
@[simp] theorem State.goto_outsr (s : State) (p : BitVec 5) : (s.goto p).outsr = s.outsr := rfl
@[simp] theorem State.goto_insr (s : State) (p : BitVec 5) : (s.goto p).insr = s.insr := rfl
@[simp] theorem State.goto_half (s : State) (p : BitVec 5) : (s.goto p).half = s.half := rfl
@[simp] theorem State.goto_timer (s : State) (p : BitVec 5) : (s.goto p).timer = s.timer := rfl
@[simp] theorem State.goto_drvReady (s : State) (p : BitVec 5) : (s.goto p).drvReady = s.drvReady := rfl
@[simp] theorem State.goto_lines (s : State) (p : BitVec 5) : (s.goto p).lines = s.lines := rfl
@[simp] theorem State.goto_trace (s : State) (p : BitVec 5) : (s.goto p).trace = s.trace := rfl
@[simp] theorem State.goto_inited (s : State) (p : BitVec 5) : (s.goto p).inited = s.inited := rfl
@[simp] theorem State.goto_faulted (s : State) (p : BitVec 5) : (s.goto p).faulted = s.faulted := rfl
@[simp] theorem State.goto_faultPhase (s : State) (p : BitVec 5) : (s.goto p).faultPhase = s.faultPhase := rfl
@[simp] theorem State.goto_answer (s : State) (p : BitVec 5) : (s.goto p).answer = s.answer := rfl
@[simp] theorem State.goto_inbox (s : State) (p : BitVec 5) : (s.goto p).inbox = s.inbox := rfl
@[simp] theorem State.goto_schedule (s : State) (p : BitVec 5) : (s.goto p).schedule = s.schedule := rfl
@[simp] theorem State.goto_turns (s : State) (p : BitVec 5) : (s.goto p).turns = s.turns := rfl
@[simp] theorem State.goto_answers (s : State) (p : BitVec 5) : (s.goto p).answers = s.answers := rfl
@[simp] theorem State.goto_draws (s : State) (p : BitVec 5) : (s.goto p).draws = s.draws := rfl

/-! reply -/

@[simp] theorem State.reply_params (s : State) (a : BusAnswer) : (s.reply a).params = s.params := rfl
@[simp] theorem State.reply_cfgCs (s : State) (a : BusAnswer) : (s.reply a).cfgCs = s.cfgCs := rfl
@[simp] theorem State.reply_cfgClk (s : State) (a : BusAnswer) : (s.reply a).cfgClk = s.cfgClk := rfl
@[simp] theorem State.reply_cfgMosi (s : State) (a : BusAnswer) : (s.reply a).cfgMosi = s.cfgMosi := rfl
@[simp] theorem State.reply_cfgMiso (s : State) (a : BusAnswer) : (s.reply a).cfgMiso = s.cfgMiso := rfl
@[simp] theorem State.reply_cfgSpeed (s : State) (a : BusAnswer) : (s.reply a).cfgSpeed = s.cfgSpeed := rfl
@[simp] theorem State.reply_len (s : State) (a : BusAnswer) : (s.reply a).len = s.len := rfl
@[simp] theorem State.reply_busy (s : State) (a : BusAnswer) : (s.reply a).busy = s.busy := rfl
@[simp] theorem State.reply_fault (s : State) (a : BusAnswer) : (s.reply a).fault = s.fault := rfl
@[simp] theorem State.reply_fcode (s : State) (a : BusAnswer) : (s.reply a).fcode = s.fcode := rfl
@[simp] theorem State.reply_tx (s : State) (a : BusAnswer) : (s.reply a).tx = s.tx := rfl
@[simp] theorem State.reply_rx (s : State) (a : BusAnswer) : (s.reply a).rx = s.rx := rfl
@[simp] theorem State.reply_phase (s : State) (a : BusAnswer) : (s.reply a).phase = s.phase := rfl
@[simp] theorem State.reply_port (s : State) (a : BusAnswer) : (s.reply a).port = s.port := rfl
@[simp] theorem State.reply_nlen (s : State) (a : BusAnswer) : (s.reply a).nlen = s.nlen := rfl
@[simp] theorem State.reply_j (s : State) (a : BusAnswer) : (s.reply a).j = s.j := rfl
@[simp] theorem State.reply_bitn (s : State) (a : BusAnswer) : (s.reply a).bitn = s.bitn := rfl
@[simp] theorem State.reply_outsr (s : State) (a : BusAnswer) : (s.reply a).outsr = s.outsr := rfl
@[simp] theorem State.reply_insr (s : State) (a : BusAnswer) : (s.reply a).insr = s.insr := rfl
@[simp] theorem State.reply_half (s : State) (a : BusAnswer) : (s.reply a).half = s.half := rfl
@[simp] theorem State.reply_timer (s : State) (a : BusAnswer) : (s.reply a).timer = s.timer := rfl
@[simp] theorem State.reply_drvReady (s : State) (a : BusAnswer) : (s.reply a).drvReady = s.drvReady := rfl
@[simp] theorem State.reply_lines (s : State) (a : BusAnswer) : (s.reply a).lines = s.lines := rfl
@[simp] theorem State.reply_trace (s : State) (a : BusAnswer) : (s.reply a).trace = s.trace := rfl
@[simp] theorem State.reply_inited (s : State) (a : BusAnswer) : (s.reply a).inited = s.inited := rfl
@[simp] theorem State.reply_faulted (s : State) (a : BusAnswer) : (s.reply a).faulted = s.faulted := rfl
@[simp] theorem State.reply_faultPhase (s : State) (a : BusAnswer) : (s.reply a).faultPhase = s.faultPhase := rfl
@[simp] theorem State.reply_answer (s : State) (a : BusAnswer) : (s.reply a).answer = some a := rfl
@[simp] theorem State.reply_inbox (s : State) (a : BusAnswer) : (s.reply a).inbox = s.inbox := rfl
@[simp] theorem State.reply_schedule (s : State) (a : BusAnswer) : (s.reply a).schedule = s.schedule := rfl
@[simp] theorem State.reply_turns (s : State) (a : BusAnswer) : (s.reply a).turns = s.turns := rfl
@[simp] theorem State.reply_answers (s : State) (a : BusAnswer) : (s.reply a).answers = s.answers := rfl
@[simp] theorem State.reply_draws (s : State) (a : BusAnswer) : (s.reply a).draws = s.draws := rfl

/-! busError -/

@[simp] theorem State.busError_params (s : State) : (s.busError).params = s.params := rfl
@[simp] theorem State.busError_cfgCs (s : State) : (s.busError).cfgCs = s.cfgCs := rfl
@[simp] theorem State.busError_cfgClk (s : State) : (s.busError).cfgClk = s.cfgClk := rfl
@[simp] theorem State.busError_cfgMosi (s : State) : (s.busError).cfgMosi = s.cfgMosi := rfl
@[simp] theorem State.busError_cfgMiso (s : State) : (s.busError).cfgMiso = s.cfgMiso := rfl
@[simp] theorem State.busError_cfgSpeed (s : State) : (s.busError).cfgSpeed = s.cfgSpeed := rfl
@[simp] theorem State.busError_len (s : State) : (s.busError).len = s.len := rfl
@[simp] theorem State.busError_busy (s : State) : (s.busError).busy = s.busy := rfl
@[simp] theorem State.busError_fault (s : State) : (s.busError).fault = s.fault := rfl
@[simp] theorem State.busError_fcode (s : State) : (s.busError).fcode = s.fcode := rfl
@[simp] theorem State.busError_tx (s : State) : (s.busError).tx = s.tx := rfl
@[simp] theorem State.busError_rx (s : State) : (s.busError).rx = s.rx := rfl
@[simp] theorem State.busError_phase (s : State) : (s.busError).phase = s.phase := rfl
@[simp] theorem State.busError_port (s : State) : (s.busError).port = s.port := rfl
@[simp] theorem State.busError_nlen (s : State) : (s.busError).nlen = s.nlen := rfl
@[simp] theorem State.busError_j (s : State) : (s.busError).j = s.j := rfl
@[simp] theorem State.busError_bitn (s : State) : (s.busError).bitn = s.bitn := rfl
@[simp] theorem State.busError_outsr (s : State) : (s.busError).outsr = s.outsr := rfl
@[simp] theorem State.busError_insr (s : State) : (s.busError).insr = s.insr := rfl
@[simp] theorem State.busError_half (s : State) : (s.busError).half = s.half := rfl
@[simp] theorem State.busError_timer (s : State) : (s.busError).timer = s.timer := rfl
@[simp] theorem State.busError_drvReady (s : State) : (s.busError).drvReady = s.drvReady := rfl
@[simp] theorem State.busError_lines (s : State) : (s.busError).lines = s.lines := rfl
@[simp] theorem State.busError_trace (s : State) : (s.busError).trace = s.trace := rfl
@[simp] theorem State.busError_inited (s : State) : (s.busError).inited = s.inited := rfl
@[simp] theorem State.busError_faulted (s : State) : (s.busError).faulted = s.faulted := rfl
@[simp] theorem State.busError_faultPhase (s : State) : (s.busError).faultPhase = s.faultPhase := rfl
@[simp] theorem State.busError_answer (s : State) : (s.busError).answer = some .busError := rfl
@[simp] theorem State.busError_inbox (s : State) : (s.busError).inbox = s.inbox := rfl
@[simp] theorem State.busError_schedule (s : State) : (s.busError).schedule = s.schedule := rfl
@[simp] theorem State.busError_turns (s : State) : (s.busError).turns = s.turns := rfl
@[simp] theorem State.busError_answers (s : State) : (s.busError).answers = s.answers := rfl
@[simp] theorem State.busError_draws (s : State) : (s.busError).draws = s.draws := rfl

/-! raiseFault -/

@[simp] theorem State.raiseFault_params (s : State) (c : FaultCode) : (s.raiseFault c).params = s.params := rfl
@[simp] theorem State.raiseFault_cfgCs (s : State) (c : FaultCode) : (s.raiseFault c).cfgCs = s.cfgCs := rfl
@[simp] theorem State.raiseFault_cfgClk (s : State) (c : FaultCode) : (s.raiseFault c).cfgClk = s.cfgClk := rfl
@[simp] theorem State.raiseFault_cfgMosi (s : State) (c : FaultCode) : (s.raiseFault c).cfgMosi = s.cfgMosi := rfl
@[simp] theorem State.raiseFault_cfgMiso (s : State) (c : FaultCode) : (s.raiseFault c).cfgMiso = s.cfgMiso := rfl
@[simp] theorem State.raiseFault_cfgSpeed (s : State) (c : FaultCode) : (s.raiseFault c).cfgSpeed = s.cfgSpeed := rfl
@[simp] theorem State.raiseFault_len (s : State) (c : FaultCode) : (s.raiseFault c).len = s.len := rfl
@[simp] theorem State.raiseFault_busy (s : State) (c : FaultCode) : (s.raiseFault c).busy = false := rfl
@[simp] theorem State.raiseFault_fault (s : State) (c : FaultCode) : (s.raiseFault c).fault = true := rfl
@[simp] theorem State.raiseFault_fcode (s : State) (c : FaultCode) : (s.raiseFault c).fcode = if s.fault then s.fcode else c.code := rfl
@[simp] theorem State.raiseFault_tx (s : State) (c : FaultCode) : (s.raiseFault c).tx = s.tx := rfl
@[simp] theorem State.raiseFault_rx (s : State) (c : FaultCode) : (s.raiseFault c).rx = s.rx := rfl
@[simp] theorem State.raiseFault_phase (s : State) (c : FaultCode) : (s.raiseFault c).phase = Phase.idle := rfl
@[simp] theorem State.raiseFault_port (s : State) (c : FaultCode) : (s.raiseFault c).port = s.port := rfl
@[simp] theorem State.raiseFault_nlen (s : State) (c : FaultCode) : (s.raiseFault c).nlen = s.nlen := rfl
@[simp] theorem State.raiseFault_j (s : State) (c : FaultCode) : (s.raiseFault c).j = s.j := rfl
@[simp] theorem State.raiseFault_bitn (s : State) (c : FaultCode) : (s.raiseFault c).bitn = s.bitn := rfl
@[simp] theorem State.raiseFault_outsr (s : State) (c : FaultCode) : (s.raiseFault c).outsr = s.outsr := rfl
@[simp] theorem State.raiseFault_insr (s : State) (c : FaultCode) : (s.raiseFault c).insr = s.insr := rfl
@[simp] theorem State.raiseFault_half (s : State) (c : FaultCode) : (s.raiseFault c).half = s.half := rfl
@[simp] theorem State.raiseFault_timer (s : State) (c : FaultCode) : (s.raiseFault c).timer = s.timer := rfl
@[simp] theorem State.raiseFault_drvReady (s : State) (c : FaultCode) : (s.raiseFault c).drvReady = s.drvReady := rfl
@[simp] theorem State.raiseFault_lines (s : State) (c : FaultCode) : (s.raiseFault c).lines = s.lines := rfl
@[simp] theorem State.raiseFault_trace (s : State) (c : FaultCode) : (s.raiseFault c).trace = s.trace ++ [.fault c] := rfl
@[simp] theorem State.raiseFault_inited (s : State) (c : FaultCode) : (s.raiseFault c).inited = s.inited := rfl
@[simp] theorem State.raiseFault_faulted (s : State) (c : FaultCode) : (s.raiseFault c).faulted = true := rfl
@[simp] theorem State.raiseFault_faultPhase (s : State) (c : FaultCode) : (s.raiseFault c).faultPhase = s.faultPhase := rfl
@[simp] theorem State.raiseFault_answer (s : State) (c : FaultCode) : (s.raiseFault c).answer = s.answer := rfl
@[simp] theorem State.raiseFault_inbox (s : State) (c : FaultCode) : (s.raiseFault c).inbox = s.inbox := rfl
@[simp] theorem State.raiseFault_schedule (s : State) (c : FaultCode) : (s.raiseFault c).schedule = s.schedule := rfl
@[simp] theorem State.raiseFault_turns (s : State) (c : FaultCode) : (s.raiseFault c).turns = s.turns := rfl
@[simp] theorem State.raiseFault_answers (s : State) (c : FaultCode) : (s.raiseFault c).answers = s.answers := rfl
@[simp] theorem State.raiseFault_draws (s : State) (c : FaultCode) : (s.raiseFault c).draws = s.draws := rfl

/-! driverError -/

@[simp] theorem State.driverError_params (s : State) : (s.driverError).params = s.params := rfl
@[simp] theorem State.driverError_cfgCs (s : State) : (s.driverError).cfgCs = s.cfgCs := rfl
@[simp] theorem State.driverError_cfgClk (s : State) : (s.driverError).cfgClk = s.cfgClk := rfl
@[simp] theorem State.driverError_cfgMosi (s : State) : (s.driverError).cfgMosi = s.cfgMosi := rfl
@[simp] theorem State.driverError_cfgMiso (s : State) : (s.driverError).cfgMiso = s.cfgMiso := rfl
@[simp] theorem State.driverError_cfgSpeed (s : State) : (s.driverError).cfgSpeed = s.cfgSpeed := rfl
@[simp] theorem State.driverError_len (s : State) : (s.driverError).len = s.len := rfl
@[simp] theorem State.driverError_busy (s : State) : (s.driverError).busy = false := rfl
@[simp] theorem State.driverError_fault (s : State) : (s.driverError).fault = true := rfl
@[simp] theorem State.driverError_fcode (s : State) : (s.driverError).fcode = if s.fault then s.fcode else FaultCode.code .driverError := rfl
@[simp] theorem State.driverError_tx (s : State) : (s.driverError).tx = s.tx := rfl
@[simp] theorem State.driverError_rx (s : State) : (s.driverError).rx = s.rx := rfl
@[simp] theorem State.driverError_phase (s : State) : (s.driverError).phase = Phase.idle := rfl
@[simp] theorem State.driverError_port (s : State) : (s.driverError).port = s.port := rfl
@[simp] theorem State.driverError_nlen (s : State) : (s.driverError).nlen = s.nlen := rfl
@[simp] theorem State.driverError_j (s : State) : (s.driverError).j = s.j := rfl
@[simp] theorem State.driverError_bitn (s : State) : (s.driverError).bitn = s.bitn := rfl
@[simp] theorem State.driverError_outsr (s : State) : (s.driverError).outsr = s.outsr := rfl
@[simp] theorem State.driverError_insr (s : State) : (s.driverError).insr = s.insr := rfl
@[simp] theorem State.driverError_half (s : State) : (s.driverError).half = s.half := rfl
@[simp] theorem State.driverError_timer (s : State) : (s.driverError).timer = s.timer := rfl
@[simp] theorem State.driverError_drvReady (s : State) : (s.driverError).drvReady = s.drvReady := rfl
@[simp] theorem State.driverError_lines (s : State) : (s.driverError).lines = s.lines := rfl
@[simp] theorem State.driverError_trace (s : State) : (s.driverError).trace = s.trace ++ [.fault .driverError] := rfl
@[simp] theorem State.driverError_inited (s : State) : (s.driverError).inited = s.inited := rfl
@[simp] theorem State.driverError_faulted (s : State) : (s.driverError).faulted = true := rfl
@[simp] theorem State.driverError_faultPhase (s : State) : (s.driverError).faultPhase = some s.phase := rfl
@[simp] theorem State.driverError_answer (s : State) : (s.driverError).answer = s.answer := rfl
@[simp] theorem State.driverError_inbox (s : State) : (s.driverError).inbox = s.inbox := rfl
@[simp] theorem State.driverError_schedule (s : State) : (s.driverError).schedule = s.schedule := rfl
@[simp] theorem State.driverError_turns (s : State) : (s.driverError).turns = s.turns := rfl
@[simp] theorem State.driverError_answers (s : State) : (s.driverError).answers = s.answers := rfl
@[simp] theorem State.driverError_draws (s : State) : (s.driverError).draws = s.draws := rfl

/-! takeAnswer -/

@[simp] theorem State.takeAnswer_params (s : State) : (s.takeAnswer).params = s.params := rfl
@[simp] theorem State.takeAnswer_cfgCs (s : State) : (s.takeAnswer).cfgCs = s.cfgCs := rfl
@[simp] theorem State.takeAnswer_cfgClk (s : State) : (s.takeAnswer).cfgClk = s.cfgClk := rfl
@[simp] theorem State.takeAnswer_cfgMosi (s : State) : (s.takeAnswer).cfgMosi = s.cfgMosi := rfl
@[simp] theorem State.takeAnswer_cfgMiso (s : State) : (s.takeAnswer).cfgMiso = s.cfgMiso := rfl
@[simp] theorem State.takeAnswer_cfgSpeed (s : State) : (s.takeAnswer).cfgSpeed = s.cfgSpeed := rfl
@[simp] theorem State.takeAnswer_len (s : State) : (s.takeAnswer).len = s.len := rfl
@[simp] theorem State.takeAnswer_busy (s : State) : (s.takeAnswer).busy = s.busy := rfl
@[simp] theorem State.takeAnswer_fault (s : State) : (s.takeAnswer).fault = s.fault := rfl
@[simp] theorem State.takeAnswer_fcode (s : State) : (s.takeAnswer).fcode = s.fcode := rfl
@[simp] theorem State.takeAnswer_tx (s : State) : (s.takeAnswer).tx = s.tx := rfl
@[simp] theorem State.takeAnswer_rx (s : State) : (s.takeAnswer).rx = s.rx := rfl
@[simp] theorem State.takeAnswer_phase (s : State) : (s.takeAnswer).phase = s.phase := rfl
@[simp] theorem State.takeAnswer_port (s : State) : (s.takeAnswer).port = s.port := rfl
@[simp] theorem State.takeAnswer_nlen (s : State) : (s.takeAnswer).nlen = s.nlen := rfl
@[simp] theorem State.takeAnswer_j (s : State) : (s.takeAnswer).j = s.j := rfl
@[simp] theorem State.takeAnswer_bitn (s : State) : (s.takeAnswer).bitn = s.bitn := rfl
@[simp] theorem State.takeAnswer_outsr (s : State) : (s.takeAnswer).outsr = s.outsr := rfl
@[simp] theorem State.takeAnswer_insr (s : State) : (s.takeAnswer).insr = s.insr := rfl
@[simp] theorem State.takeAnswer_half (s : State) : (s.takeAnswer).half = s.half := rfl
@[simp] theorem State.takeAnswer_timer (s : State) : (s.takeAnswer).timer = s.timer := rfl
@[simp] theorem State.takeAnswer_drvReady (s : State) : (s.takeAnswer).drvReady = s.drvReady := rfl
@[simp] theorem State.takeAnswer_lines (s : State) : (s.takeAnswer).lines = s.lines := rfl
@[simp] theorem State.takeAnswer_trace (s : State) : (s.takeAnswer).trace = s.trace := rfl
@[simp] theorem State.takeAnswer_inited (s : State) : (s.takeAnswer).inited = s.inited := rfl
@[simp] theorem State.takeAnswer_faulted (s : State) : (s.takeAnswer).faulted = s.faulted := rfl
@[simp] theorem State.takeAnswer_faultPhase (s : State) : (s.takeAnswer).faultPhase = s.faultPhase := rfl
@[simp] theorem State.takeAnswer_answer (s : State) : (s.takeAnswer).answer = s.answer := rfl
@[simp] theorem State.takeAnswer_inbox (s : State) : (s.takeAnswer).inbox = s.inbox := rfl
@[simp] theorem State.takeAnswer_schedule (s : State) : (s.takeAnswer).schedule = s.schedule := rfl
@[simp] theorem State.takeAnswer_turns (s : State) : (s.takeAnswer).turns = s.turns := rfl
@[simp] theorem State.takeAnswer_answers (s : State) : (s.takeAnswer).answers = s.answers.tail := rfl
@[simp] theorem State.takeAnswer_draws (s : State) : (s.takeAnswer).draws = s.draws + 1 := rfl

/-! timerLoad -/

@[simp] theorem State.timerLoad_params (s : State) : (s.timerLoad).params = s.params := rfl
@[simp] theorem State.timerLoad_cfgCs (s : State) : (s.timerLoad).cfgCs = s.cfgCs := rfl
@[simp] theorem State.timerLoad_cfgClk (s : State) : (s.timerLoad).cfgClk = s.cfgClk := rfl
@[simp] theorem State.timerLoad_cfgMosi (s : State) : (s.timerLoad).cfgMosi = s.cfgMosi := rfl
@[simp] theorem State.timerLoad_cfgMiso (s : State) : (s.timerLoad).cfgMiso = s.cfgMiso := rfl
@[simp] theorem State.timerLoad_cfgSpeed (s : State) : (s.timerLoad).cfgSpeed = s.cfgSpeed := rfl
@[simp] theorem State.timerLoad_len (s : State) : (s.timerLoad).len = s.len := rfl
@[simp] theorem State.timerLoad_busy (s : State) : (s.timerLoad).busy = s.busy := rfl
@[simp] theorem State.timerLoad_fault (s : State) : (s.timerLoad).fault = s.fault := rfl
@[simp] theorem State.timerLoad_fcode (s : State) : (s.timerLoad).fcode = s.fcode := rfl
@[simp] theorem State.timerLoad_tx (s : State) : (s.timerLoad).tx = s.tx := rfl
@[simp] theorem State.timerLoad_rx (s : State) : (s.timerLoad).rx = s.rx := rfl
@[simp] theorem State.timerLoad_phase (s : State) : (s.timerLoad).phase = s.phase := rfl
@[simp] theorem State.timerLoad_port (s : State) : (s.timerLoad).port = s.port := rfl
@[simp] theorem State.timerLoad_nlen (s : State) : (s.timerLoad).nlen = s.nlen := rfl
@[simp] theorem State.timerLoad_j (s : State) : (s.timerLoad).j = s.j := rfl
@[simp] theorem State.timerLoad_bitn (s : State) : (s.timerLoad).bitn = s.bitn := rfl
@[simp] theorem State.timerLoad_outsr (s : State) : (s.timerLoad).outsr = s.outsr := rfl
@[simp] theorem State.timerLoad_insr (s : State) : (s.timerLoad).insr = s.insr := rfl
@[simp] theorem State.timerLoad_half (s : State) : (s.timerLoad).half = s.half := rfl
@[simp] theorem State.timerLoad_timer (s : State) : (s.timerLoad).timer = holdTicks s.params s.half.toNat := rfl
@[simp] theorem State.timerLoad_drvReady (s : State) : (s.timerLoad).drvReady = s.drvReady := rfl
@[simp] theorem State.timerLoad_lines (s : State) : (s.timerLoad).lines = s.lines := rfl
@[simp] theorem State.timerLoad_trace (s : State) : (s.timerLoad).trace = s.trace := rfl
@[simp] theorem State.timerLoad_inited (s : State) : (s.timerLoad).inited = s.inited := rfl
@[simp] theorem State.timerLoad_faulted (s : State) : (s.timerLoad).faulted = s.faulted := rfl
@[simp] theorem State.timerLoad_faultPhase (s : State) : (s.timerLoad).faultPhase = s.faultPhase := rfl
@[simp] theorem State.timerLoad_answer (s : State) : (s.timerLoad).answer = s.answer := rfl
@[simp] theorem State.timerLoad_inbox (s : State) : (s.timerLoad).inbox = s.inbox := rfl
@[simp] theorem State.timerLoad_schedule (s : State) : (s.timerLoad).schedule = s.schedule := rfl
@[simp] theorem State.timerLoad_turns (s : State) : (s.timerLoad).turns = s.turns := rfl
@[simp] theorem State.timerLoad_answers (s : State) : (s.timerLoad).answers = s.answers := rfl
@[simp] theorem State.timerLoad_draws (s : State) : (s.timerLoad).draws = s.draws := rfl

/-! timerExpire -/

@[simp] theorem State.timerExpire_params (s : State) : (s.timerExpire).params = s.params := rfl
@[simp] theorem State.timerExpire_cfgCs (s : State) : (s.timerExpire).cfgCs = s.cfgCs := rfl
@[simp] theorem State.timerExpire_cfgClk (s : State) : (s.timerExpire).cfgClk = s.cfgClk := rfl
@[simp] theorem State.timerExpire_cfgMosi (s : State) : (s.timerExpire).cfgMosi = s.cfgMosi := rfl
@[simp] theorem State.timerExpire_cfgMiso (s : State) : (s.timerExpire).cfgMiso = s.cfgMiso := rfl
@[simp] theorem State.timerExpire_cfgSpeed (s : State) : (s.timerExpire).cfgSpeed = s.cfgSpeed := rfl
@[simp] theorem State.timerExpire_len (s : State) : (s.timerExpire).len = s.len := rfl
@[simp] theorem State.timerExpire_busy (s : State) : (s.timerExpire).busy = s.busy := rfl
@[simp] theorem State.timerExpire_fault (s : State) : (s.timerExpire).fault = s.fault := rfl
@[simp] theorem State.timerExpire_fcode (s : State) : (s.timerExpire).fcode = s.fcode := rfl
@[simp] theorem State.timerExpire_tx (s : State) : (s.timerExpire).tx = s.tx := rfl
@[simp] theorem State.timerExpire_rx (s : State) : (s.timerExpire).rx = s.rx := rfl
@[simp] theorem State.timerExpire_phase (s : State) : (s.timerExpire).phase = s.phase := rfl
@[simp] theorem State.timerExpire_port (s : State) : (s.timerExpire).port = s.port := rfl
@[simp] theorem State.timerExpire_nlen (s : State) : (s.timerExpire).nlen = s.nlen := rfl
@[simp] theorem State.timerExpire_j (s : State) : (s.timerExpire).j = s.j := rfl
@[simp] theorem State.timerExpire_bitn (s : State) : (s.timerExpire).bitn = s.bitn := rfl
@[simp] theorem State.timerExpire_outsr (s : State) : (s.timerExpire).outsr = s.outsr := rfl
@[simp] theorem State.timerExpire_insr (s : State) : (s.timerExpire).insr = s.insr := rfl
@[simp] theorem State.timerExpire_half (s : State) : (s.timerExpire).half = s.half := rfl
@[simp] theorem State.timerExpire_timer (s : State) : (s.timerExpire).timer = 0 := rfl
@[simp] theorem State.timerExpire_drvReady (s : State) : (s.timerExpire).drvReady = s.drvReady := rfl
@[simp] theorem State.timerExpire_lines (s : State) : (s.timerExpire).lines = s.lines := rfl
@[simp] theorem State.timerExpire_trace (s : State) : (s.timerExpire).trace = s.trace := rfl
@[simp] theorem State.timerExpire_inited (s : State) : (s.timerExpire).inited = s.inited := rfl
@[simp] theorem State.timerExpire_faulted (s : State) : (s.timerExpire).faulted = s.faulted := rfl
@[simp] theorem State.timerExpire_faultPhase (s : State) : (s.timerExpire).faultPhase = s.faultPhase := rfl
@[simp] theorem State.timerExpire_answer (s : State) : (s.timerExpire).answer = s.answer := rfl
@[simp] theorem State.timerExpire_inbox (s : State) : (s.timerExpire).inbox = s.inbox := rfl
@[simp] theorem State.timerExpire_schedule (s : State) : (s.timerExpire).schedule = s.schedule := rfl
@[simp] theorem State.timerExpire_turns (s : State) : (s.timerExpire).turns = s.turns := rfl
@[simp] theorem State.timerExpire_answers (s : State) : (s.timerExpire).answers = s.answers := rfl
@[simp] theorem State.timerExpire_draws (s : State) : (s.timerExpire).draws = s.draws := rfl

/-! holdHalf -/

@[simp] theorem State.holdHalf_params (s : State) (next : BitVec 5) : (s.holdHalf next).params = s.params := rfl
@[simp] theorem State.holdHalf_cfgCs (s : State) (next : BitVec 5) : (s.holdHalf next).cfgCs = s.cfgCs := rfl
@[simp] theorem State.holdHalf_cfgClk (s : State) (next : BitVec 5) : (s.holdHalf next).cfgClk = s.cfgClk := rfl
@[simp] theorem State.holdHalf_cfgMosi (s : State) (next : BitVec 5) : (s.holdHalf next).cfgMosi = s.cfgMosi := rfl
@[simp] theorem State.holdHalf_cfgMiso (s : State) (next : BitVec 5) : (s.holdHalf next).cfgMiso = s.cfgMiso := rfl
@[simp] theorem State.holdHalf_cfgSpeed (s : State) (next : BitVec 5) : (s.holdHalf next).cfgSpeed = s.cfgSpeed := rfl
@[simp] theorem State.holdHalf_len (s : State) (next : BitVec 5) : (s.holdHalf next).len = s.len := rfl
@[simp] theorem State.holdHalf_busy (s : State) (next : BitVec 5) : (s.holdHalf next).busy = s.busy := rfl
@[simp] theorem State.holdHalf_fault (s : State) (next : BitVec 5) : (s.holdHalf next).fault = s.fault := rfl
@[simp] theorem State.holdHalf_fcode (s : State) (next : BitVec 5) : (s.holdHalf next).fcode = s.fcode := rfl
@[simp] theorem State.holdHalf_tx (s : State) (next : BitVec 5) : (s.holdHalf next).tx = s.tx := rfl
@[simp] theorem State.holdHalf_rx (s : State) (next : BitVec 5) : (s.holdHalf next).rx = s.rx := rfl
@[simp] theorem State.holdHalf_phase (s : State) (next : BitVec 5) : (s.holdHalf next).phase = next := rfl
@[simp] theorem State.holdHalf_port (s : State) (next : BitVec 5) : (s.holdHalf next).port = s.port := rfl
@[simp] theorem State.holdHalf_nlen (s : State) (next : BitVec 5) : (s.holdHalf next).nlen = s.nlen := rfl
@[simp] theorem State.holdHalf_j (s : State) (next : BitVec 5) : (s.holdHalf next).j = s.j := rfl
@[simp] theorem State.holdHalf_bitn (s : State) (next : BitVec 5) : (s.holdHalf next).bitn = s.bitn := rfl
@[simp] theorem State.holdHalf_outsr (s : State) (next : BitVec 5) : (s.holdHalf next).outsr = s.outsr := rfl
@[simp] theorem State.holdHalf_insr (s : State) (next : BitVec 5) : (s.holdHalf next).insr = s.insr := rfl
@[simp] theorem State.holdHalf_half (s : State) (next : BitVec 5) : (s.holdHalf next).half = s.half := rfl
@[simp] theorem State.holdHalf_timer (s : State) (next : BitVec 5) : (s.holdHalf next).timer = 0 := rfl
@[simp] theorem State.holdHalf_drvReady (s : State) (next : BitVec 5) : (s.holdHalf next).drvReady = s.drvReady := rfl
@[simp] theorem State.holdHalf_lines (s : State) (next : BitVec 5) : (s.holdHalf next).lines = s.lines := rfl
@[simp] theorem State.holdHalf_trace (s : State) (next : BitVec 5) : (s.holdHalf next).trace = s.trace ++ [.hold s.half.toNat] := rfl
@[simp] theorem State.holdHalf_inited (s : State) (next : BitVec 5) : (s.holdHalf next).inited = s.inited := rfl
@[simp] theorem State.holdHalf_faulted (s : State) (next : BitVec 5) : (s.holdHalf next).faulted = s.faulted := rfl
@[simp] theorem State.holdHalf_faultPhase (s : State) (next : BitVec 5) : (s.holdHalf next).faultPhase = s.faultPhase := rfl
@[simp] theorem State.holdHalf_answer (s : State) (next : BitVec 5) : (s.holdHalf next).answer = s.answer := rfl
@[simp] theorem State.holdHalf_inbox (s : State) (next : BitVec 5) : (s.holdHalf next).inbox = s.inbox := rfl
@[simp] theorem State.holdHalf_schedule (s : State) (next : BitVec 5) : (s.holdHalf next).schedule = s.schedule := rfl
@[simp] theorem State.holdHalf_turns (s : State) (next : BitVec 5) : (s.holdHalf next).turns = s.turns := rfl
@[simp] theorem State.holdHalf_answers (s : State) (next : BitVec 5) : (s.holdHalf next).answers = s.answers := rfl
@[simp] theorem State.holdHalf_draws (s : State) (next : BitVec 5) : (s.holdHalf next).draws = s.draws := rfl

/-! addInited -/

@[simp] theorem State.addInited_params (s : State) : (s.addInited).params = s.params := rfl
@[simp] theorem State.addInited_cfgCs (s : State) : (s.addInited).cfgCs = s.cfgCs := rfl
@[simp] theorem State.addInited_cfgClk (s : State) : (s.addInited).cfgClk = s.cfgClk := rfl
@[simp] theorem State.addInited_cfgMosi (s : State) : (s.addInited).cfgMosi = s.cfgMosi := rfl
@[simp] theorem State.addInited_cfgMiso (s : State) : (s.addInited).cfgMiso = s.cfgMiso := rfl
@[simp] theorem State.addInited_cfgSpeed (s : State) : (s.addInited).cfgSpeed = s.cfgSpeed := rfl
@[simp] theorem State.addInited_len (s : State) : (s.addInited).len = s.len := rfl
@[simp] theorem State.addInited_busy (s : State) : (s.addInited).busy = s.busy := rfl
@[simp] theorem State.addInited_fault (s : State) : (s.addInited).fault = s.fault := rfl
@[simp] theorem State.addInited_fcode (s : State) : (s.addInited).fcode = s.fcode := rfl
@[simp] theorem State.addInited_tx (s : State) : (s.addInited).tx = s.tx := rfl
@[simp] theorem State.addInited_rx (s : State) : (s.addInited).rx = s.rx := rfl
@[simp] theorem State.addInited_phase (s : State) : (s.addInited).phase = s.phase := rfl
@[simp] theorem State.addInited_port (s : State) : (s.addInited).port = s.port := rfl
@[simp] theorem State.addInited_nlen (s : State) : (s.addInited).nlen = s.nlen := rfl
@[simp] theorem State.addInited_j (s : State) : (s.addInited).j = s.j := rfl
@[simp] theorem State.addInited_bitn (s : State) : (s.addInited).bitn = s.bitn := rfl
@[simp] theorem State.addInited_outsr (s : State) : (s.addInited).outsr = s.outsr := rfl
@[simp] theorem State.addInited_insr (s : State) : (s.addInited).insr = s.insr := rfl
@[simp] theorem State.addInited_half (s : State) : (s.addInited).half = s.half := rfl
@[simp] theorem State.addInited_timer (s : State) : (s.addInited).timer = s.timer := rfl
@[simp] theorem State.addInited_drvReady (s : State) : (s.addInited).drvReady = s.drvReady := rfl
@[simp] theorem State.addInited_lines (s : State) : (s.addInited).lines = s.lines := rfl
@[simp] theorem State.addInited_trace (s : State) : (s.addInited).trace = s.trace := rfl
@[simp] theorem State.addInited_inited (s : State) : (s.addInited).inited = if s.port ∈ s.inited then s.inited else s.inited ++ [s.port] := rfl
@[simp] theorem State.addInited_faulted (s : State) : (s.addInited).faulted = s.faulted := rfl
@[simp] theorem State.addInited_faultPhase (s : State) : (s.addInited).faultPhase = s.faultPhase := rfl
@[simp] theorem State.addInited_answer (s : State) : (s.addInited).answer = s.answer := rfl
@[simp] theorem State.addInited_inbox (s : State) : (s.addInited).inbox = s.inbox := rfl
@[simp] theorem State.addInited_schedule (s : State) : (s.addInited).schedule = s.schedule := rfl
@[simp] theorem State.addInited_turns (s : State) : (s.addInited).turns = s.turns := rfl
@[simp] theorem State.addInited_answers (s : State) : (s.addInited).answers = s.answers := rfl
@[simp] theorem State.addInited_draws (s : State) : (s.addInited).draws = s.draws := rfl

/-! acceptInit -/

@[simp] theorem State.acceptInit_params (s : State) : (s.acceptInit).params = s.params := rfl
@[simp] theorem State.acceptInit_cfgCs (s : State) : (s.acceptInit).cfgCs = s.cfgCs := rfl
@[simp] theorem State.acceptInit_cfgClk (s : State) : (s.acceptInit).cfgClk = s.cfgClk := rfl
@[simp] theorem State.acceptInit_cfgMosi (s : State) : (s.acceptInit).cfgMosi = s.cfgMosi := rfl
@[simp] theorem State.acceptInit_cfgMiso (s : State) : (s.acceptInit).cfgMiso = s.cfgMiso := rfl
@[simp] theorem State.acceptInit_cfgSpeed (s : State) : (s.acceptInit).cfgSpeed = s.cfgSpeed := rfl
@[simp] theorem State.acceptInit_len (s : State) : (s.acceptInit).len = s.len := rfl
@[simp] theorem State.acceptInit_busy (s : State) : (s.acceptInit).busy = true := rfl
@[simp] theorem State.acceptInit_fault (s : State) : (s.acceptInit).fault = s.fault := rfl
@[simp] theorem State.acceptInit_fcode (s : State) : (s.acceptInit).fcode = s.fcode := rfl
@[simp] theorem State.acceptInit_tx (s : State) : (s.acceptInit).tx = s.tx := rfl
@[simp] theorem State.acceptInit_rx (s : State) : (s.acceptInit).rx = s.rx := rfl
@[simp] theorem State.acceptInit_phase (s : State) : (s.acceptInit).phase = Phase.iDirCs := rfl
@[simp] theorem State.acceptInit_port (s : State) : (s.acceptInit).port = s.cfgPort := rfl
@[simp] theorem State.acceptInit_nlen (s : State) : (s.acceptInit).nlen = s.nlen := rfl
@[simp] theorem State.acceptInit_j (s : State) : (s.acceptInit).j = s.j := rfl
@[simp] theorem State.acceptInit_bitn (s : State) : (s.acceptInit).bitn = s.bitn := rfl
@[simp] theorem State.acceptInit_outsr (s : State) : (s.acceptInit).outsr = s.outsr := rfl
@[simp] theorem State.acceptInit_insr (s : State) : (s.acceptInit).insr = s.insr := rfl
@[simp] theorem State.acceptInit_half (s : State) : (s.acceptInit).half = s.half := rfl
@[simp] theorem State.acceptInit_timer (s : State) : (s.acceptInit).timer = s.timer := rfl
@[simp] theorem State.acceptInit_drvReady (s : State) : (s.acceptInit).drvReady = s.drvReady := rfl
@[simp] theorem State.acceptInit_lines (s : State) : (s.acceptInit).lines = s.lines := rfl
@[simp] theorem State.acceptInit_trace (s : State) : (s.acceptInit).trace = s.trace := rfl
@[simp] theorem State.acceptInit_inited (s : State) : (s.acceptInit).inited = s.inited := rfl
@[simp] theorem State.acceptInit_faulted (s : State) : (s.acceptInit).faulted = s.faulted := rfl
@[simp] theorem State.acceptInit_faultPhase (s : State) : (s.acceptInit).faultPhase = s.faultPhase := rfl
@[simp] theorem State.acceptInit_answer (s : State) : (s.acceptInit).answer = s.answer := rfl
@[simp] theorem State.acceptInit_inbox (s : State) : (s.acceptInit).inbox = s.inbox := rfl
@[simp] theorem State.acceptInit_schedule (s : State) : (s.acceptInit).schedule = s.schedule := rfl
@[simp] theorem State.acceptInit_turns (s : State) : (s.acceptInit).turns = s.turns := rfl
@[simp] theorem State.acceptInit_answers (s : State) : (s.acceptInit).answers = s.answers := rfl
@[simp] theorem State.acceptInit_draws (s : State) : (s.acceptInit).draws = s.draws := rfl

/-! acceptXfer -/

@[simp] theorem State.acceptXfer_params (s : State) : (s.acceptXfer).params = s.params := rfl
@[simp] theorem State.acceptXfer_cfgCs (s : State) : (s.acceptXfer).cfgCs = s.cfgCs := rfl
@[simp] theorem State.acceptXfer_cfgClk (s : State) : (s.acceptXfer).cfgClk = s.cfgClk := rfl
@[simp] theorem State.acceptXfer_cfgMosi (s : State) : (s.acceptXfer).cfgMosi = s.cfgMosi := rfl
@[simp] theorem State.acceptXfer_cfgMiso (s : State) : (s.acceptXfer).cfgMiso = s.cfgMiso := rfl
@[simp] theorem State.acceptXfer_cfgSpeed (s : State) : (s.acceptXfer).cfgSpeed = s.cfgSpeed := rfl
@[simp] theorem State.acceptXfer_len (s : State) : (s.acceptXfer).len = s.len := rfl
@[simp] theorem State.acceptXfer_busy (s : State) : (s.acceptXfer).busy = true := rfl
@[simp] theorem State.acceptXfer_fault (s : State) : (s.acceptXfer).fault = s.fault := rfl
@[simp] theorem State.acceptXfer_fcode (s : State) : (s.acceptXfer).fcode = s.fcode := rfl
@[simp] theorem State.acceptXfer_tx (s : State) : (s.acceptXfer).tx = s.tx := rfl
@[simp] theorem State.acceptXfer_rx (s : State) : (s.acceptXfer).rx = [] := rfl
@[simp] theorem State.acceptXfer_phase (s : State) : (s.acceptXfer).phase = Phase.xCsLo := rfl
@[simp] theorem State.acceptXfer_port (s : State) : (s.acceptXfer).port = s.cfgPort := rfl
@[simp] theorem State.acceptXfer_nlen (s : State) : (s.acceptXfer).nlen = s.len := rfl
@[simp] theorem State.acceptXfer_j (s : State) : (s.acceptXfer).j = 0 := rfl
@[simp] theorem State.acceptXfer_bitn (s : State) : (s.acceptXfer).bitn = s.bitn := rfl
@[simp] theorem State.acceptXfer_outsr (s : State) : (s.acceptXfer).outsr = s.outsr := rfl
@[simp] theorem State.acceptXfer_insr (s : State) : (s.acceptXfer).insr = s.insr := rfl
@[simp] theorem State.acceptXfer_half (s : State) : (s.acceptXfer).half = BitVec.ofNat 29 (halfPeriod s.cfgSpeed) := rfl
@[simp] theorem State.acceptXfer_timer (s : State) : (s.acceptXfer).timer = s.timer := rfl
@[simp] theorem State.acceptXfer_drvReady (s : State) : (s.acceptXfer).drvReady = s.drvReady := rfl
@[simp] theorem State.acceptXfer_lines (s : State) : (s.acceptXfer).lines = s.lines := rfl
@[simp] theorem State.acceptXfer_trace (s : State) : (s.acceptXfer).trace = s.trace := rfl
@[simp] theorem State.acceptXfer_inited (s : State) : (s.acceptXfer).inited = s.inited := rfl
@[simp] theorem State.acceptXfer_faulted (s : State) : (s.acceptXfer).faulted = s.faulted := rfl
@[simp] theorem State.acceptXfer_faultPhase (s : State) : (s.acceptXfer).faultPhase = s.faultPhase := rfl
@[simp] theorem State.acceptXfer_answer (s : State) : (s.acceptXfer).answer = s.answer := rfl
@[simp] theorem State.acceptXfer_inbox (s : State) : (s.acceptXfer).inbox = s.inbox := rfl
@[simp] theorem State.acceptXfer_schedule (s : State) : (s.acceptXfer).schedule = s.schedule := rfl
@[simp] theorem State.acceptXfer_turns (s : State) : (s.acceptXfer).turns = s.turns := rfl
@[simp] theorem State.acceptXfer_answers (s : State) : (s.acceptXfer).answers = s.answers := rfl
@[simp] theorem State.acceptXfer_draws (s : State) : (s.acceptXfer).draws = s.draws := rfl

/-! blockReset -/

@[simp] theorem State.blockReset_params (s : State) : (s.blockReset).params = s.params := rfl
@[simp] theorem State.blockReset_cfgCs (s : State) : (s.blockReset).cfgCs = 0 := rfl
@[simp] theorem State.blockReset_cfgClk (s : State) : (s.blockReset).cfgClk = 0 := rfl
@[simp] theorem State.blockReset_cfgMosi (s : State) : (s.blockReset).cfgMosi = 0 := rfl
@[simp] theorem State.blockReset_cfgMiso (s : State) : (s.blockReset).cfgMiso = 0 := rfl
@[simp] theorem State.blockReset_cfgSpeed (s : State) : (s.blockReset).cfgSpeed = 0 := rfl
@[simp] theorem State.blockReset_len (s : State) : (s.blockReset).len = 0 := rfl
@[simp] theorem State.blockReset_busy (s : State) : (s.blockReset).busy = false := rfl
@[simp] theorem State.blockReset_fault (s : State) : (s.blockReset).fault = false := rfl
@[simp] theorem State.blockReset_fcode (s : State) : (s.blockReset).fcode = 0 := rfl
@[simp] theorem State.blockReset_tx (s : State) : (s.blockReset).tx = [] := rfl
@[simp] theorem State.blockReset_rx (s : State) : (s.blockReset).rx = [] := rfl
@[simp] theorem State.blockReset_phase (s : State) : (s.blockReset).phase = Phase.idle := rfl
@[simp] theorem State.blockReset_port (s : State) : (s.blockReset).port = Port.zero := rfl
@[simp] theorem State.blockReset_nlen (s : State) : (s.blockReset).nlen = 0 := rfl
@[simp] theorem State.blockReset_j (s : State) : (s.blockReset).j = 0 := rfl
@[simp] theorem State.blockReset_bitn (s : State) : (s.blockReset).bitn = 0 := rfl
@[simp] theorem State.blockReset_outsr (s : State) : (s.blockReset).outsr = 0 := rfl
@[simp] theorem State.blockReset_insr (s : State) : (s.blockReset).insr = 0 := rfl
@[simp] theorem State.blockReset_half (s : State) : (s.blockReset).half = 0 := rfl
@[simp] theorem State.blockReset_timer (s : State) : (s.blockReset).timer = 0 := rfl
@[simp] theorem State.blockReset_drvReady (s : State) : (s.blockReset).drvReady = s.drvReady := rfl
@[simp] theorem State.blockReset_lines (s : State) : (s.blockReset).lines = s.lines := rfl
@[simp] theorem State.blockReset_trace (s : State) : (s.blockReset).trace = s.trace := rfl
@[simp] theorem State.blockReset_inited (s : State) : (s.blockReset).inited = [] := rfl
@[simp] theorem State.blockReset_faulted (s : State) : (s.blockReset).faulted = false := rfl
@[simp] theorem State.blockReset_faultPhase (s : State) : (s.blockReset).faultPhase = none := rfl
@[simp] theorem State.blockReset_answer (s : State) : (s.blockReset).answer = s.answer := rfl
@[simp] theorem State.blockReset_inbox (s : State) : (s.blockReset).inbox = s.inbox := rfl
@[simp] theorem State.blockReset_schedule (s : State) : (s.blockReset).schedule = s.schedule := rfl
@[simp] theorem State.blockReset_turns (s : State) : (s.blockReset).turns = s.turns := rfl
@[simp] theorem State.blockReset_answers (s : State) : (s.blockReset).answers = s.answers := rfl
@[simp] theorem State.blockReset_draws (s : State) : (s.blockReset).draws = s.draws := rfl

end Sys2Proof.Machine
end

