-- ==== Sys2Proof/Laws/Memory.lean ====
section
/-! SUPPORT. Sorted lists, buffers and lines: reading after a write, and that every operation keeps the canonical form. -/

namespace Sys2Proof.Machine

section Assoc
variable {α : Type}

@[simp] theorem assocGet_nil (a : Nat) : assocGet ([] : List (Nat × α)) a = none := rfl

theorem assocGet_set_same (m : List (Nat × α)) (a : Nat) (v : α) : assocGet (assocSet m a v) a = some v := by
  induction m with
  | nil => simp [assocSet, assocGet]
  | cons e rest ih =>
    obtain ⟨k, w⟩ := e
    simp only [assocSet]
    split_ifs with h1 h2
    · simp [assocGet]
    · simp [assocGet]
    · simp only [assocGet]
      rw [if_neg (by omega)]
      exact ih

theorem assocGet_set_other (m : List (Nat × α)) {a b : Nat} (v : α) (h : a ≠ b) :
    assocGet (assocSet m a v) b = assocGet m b := by
  induction m with
  | nil => simp [assocSet, assocGet, h]
  | cons e rest ih =>
    obtain ⟨k, w⟩ := e
    simp only [assocSet]
    split_ifs with h1 h2
    · simp [assocGet, h]
    · subst h2; simp [assocGet, h]
    · simp only [assocGet, ih]

theorem assocGet_set (m : List (Nat × α)) (a b : Nat) (v : α) :
    assocGet (assocSet m a v) b = if a = b then some v else assocGet m b := by
  split_ifs with h
  · subst h; exact assocGet_set_same m a v
  · exact assocGet_set_other m v h

theorem assocAbove_weaken {m : List (Nat × α)} {a b : Nat} (hab : a ≤ b) (h : assocAbove b m = true) :
    assocAbove a m = true := by
  cases m with
  | nil => rfl
  | cons e rest =>
    obtain ⟨k, w⟩ := e
    simp only [assocAbove, Bool.and_eq_true, decide_eq_true_eq] at h ⊢
    exact ⟨by omega, h.2⟩

theorem assocSorted_of_above {m : List (Nat × α)} {a : Nat} (h : assocAbove a m = true) : assocSorted m = true := by
  cases m with
  | nil => rfl
  | cons e rest =>
    obtain ⟨k, w⟩ := e
    simp only [assocAbove, Bool.and_eq_true] at h
    exact h.2

theorem assocGet_of_above {m : List (Nat × α)} {a b : Nat} (h : assocAbove a m = true) (hb : b ≤ a) :
    assocGet m b = none := by
  induction m generalizing a with
  | nil => rfl
  | cons e rest ih =>
    obtain ⟨k, w⟩ := e
    simp only [assocAbove, Bool.and_eq_true, decide_eq_true_eq] at h
    simp only [assocGet]
    rw [if_neg (by omega)]
    exact ih h.2 (by omega)

theorem assocAbove_set {m : List (Nat × α)} {a b : Nat} (v : α) (h : assocAbove b m = true) (hb : b < a) :
    assocAbove b (assocSet m a v) = true := by
  induction m generalizing b with
  | nil => simp [assocSet, assocAbove, hb]
  | cons e rest ih =>
    obtain ⟨k, w⟩ := e
    simp only [assocAbove, Bool.and_eq_true, decide_eq_true_eq] at h
    simp only [assocSet]
    split_ifs with h1 h2
    · simp [assocAbove, hb, h1, h.2]
    · subst h2; simp [assocAbove, hb, h.2]
    · simp only [assocAbove, Bool.and_eq_true, decide_eq_true_eq]
      exact ⟨h.1, ih h.2 (by omega)⟩

theorem assocSorted_set {m : List (Nat × α)} (a : Nat) (v : α) (h : assocSorted m = true) :
    assocSorted (assocSet m a v) = true := by
  cases m with
  | nil => rfl
  | cons e rest =>
    obtain ⟨k, w⟩ := e
    simp only [assocSorted] at h
    simp only [assocSet]
    split_ifs with h1 h2
    · simp [assocSorted, assocAbove, h1, h]
    · subst h2; simpa [assocSorted] using h
    · exact assocAbove_set v h (by omega)

theorem assocAbove_erase {m : List (Nat × α)} {b : Nat} (a : Nat) (h : assocAbove b m = true) :
    assocAbove b (assocErase m a) = true := by
  induction m generalizing b with
  | nil => rfl
  | cons e rest ih =>
    obtain ⟨k, w⟩ := e
    simp only [assocAbove, Bool.and_eq_true, decide_eq_true_eq] at h
    simp only [assocErase]
    split_ifs
    · exact assocAbove_weaken (by omega) h.2
    · simp only [assocAbove, Bool.and_eq_true, decide_eq_true_eq]
      exact ⟨h.1, ih h.2⟩

theorem assocSorted_erase {m : List (Nat × α)} (a : Nat) (h : assocSorted m = true) :
    assocSorted (assocErase m a) = true := by
  cases m with
  | nil => rfl
  | cons e rest =>
    obtain ⟨k, w⟩ := e
    simp only [assocSorted] at h
    simp only [assocErase]
    split_ifs
    · exact assocSorted_of_above h
    · exact assocAbove_erase a h

theorem assocGet_erase_same {m : List (Nat × α)} (a : Nat) (h : assocSorted m = true) :
    assocGet (assocErase m a) a = none := by
  induction m with
  | nil => rfl
  | cons e rest ih =>
    obtain ⟨k, w⟩ := e
    simp only [assocSorted] at h
    simp only [assocErase]
    split_ifs with hk
    · exact assocGet_of_above h (by omega)
    · simp only [assocGet, if_neg hk]
      exact ih (assocSorted_of_above h)

theorem assocGet_erase_other {m : List (Nat × α)} {a b : Nat} (h : a ≠ b) :
    assocGet (assocErase m a) b = assocGet m b := by
  induction m with
  | nil => rfl
  | cons e rest ih =>
    obtain ⟨k, w⟩ := e
    simp only [assocErase]
    split_ifs with hk
    · subst hk; simp [assocGet, h]
    · simp only [assocGet, ih]

theorem mem_assocSet {m : List (Nat × α)} {a : Nat} {v : α} {e : Nat × α} (h : e ∈ assocSet m a v) :
    e = (a, v) ∨ e ∈ m := by
  induction m with
  | nil => left; simpa [assocSet] using h
  | cons x rest ih =>
    obtain ⟨k, w⟩ := x
    simp only [assocSet] at h
    split_ifs at h with h1 h2
    · simpa using h
    · rcases List.mem_cons.mp h with h | h
      · exact .inl h
      · exact .inr (List.mem_cons_of_mem _ h)
    · rcases List.mem_cons.mp h with h | h
      · exact .inr (h ▸ List.mem_cons_self)
      · exact (ih h).imp_right (List.mem_cons_of_mem _)

theorem mem_assocErase {m : List (Nat × α)} {a : Nat} {e : Nat × α} (h : e ∈ assocErase m a) : e ∈ m := by
  induction m with
  | nil => simp [assocErase] at h
  | cons x rest ih =>
    obtain ⟨k, w⟩ := x
    simp only [assocErase] at h
    split_ifs at h
    · exact List.mem_cons_of_mem _ h
    · rcases List.mem_cons.mp h with h | h
      · exact h ▸ List.mem_cons_self
      · exact List.mem_cons_of_mem _ (ih h)

end Assoc

/-! ## Buffers -/

theorem Memory.read_eq_assocGet (m : Memory) (k : Nat) : m.read k = assocGet m k := by
  unfold Memory.read Memory.unlisted
  cases assocGet m k <;> rfl

@[simp] theorem Memory.read_nil (k : Nat) : Memory.read [] k = none := rfl

@[simp] theorem Memory.valid_nil (k : Nat) : Memory.valid [] k = false := rfl

theorem Memory.read_store (m : Memory) (a k : Nat) (b : Byte) :
    (m.store a b).read k = if a = k then some b else m.read k := by
  rw [read_eq_assocGet, read_eq_assocGet]
  exact assocGet_set m a k b

@[simp] theorem Memory.read_store_same (m : Memory) (k : Nat) (b : Byte) : (m.store k b).read k = some b := by
  simp [read_store]

theorem Memory.read_store_other (m : Memory) {a k : Nat} (b : Byte) (h : a ≠ k) : (m.store a b).read k = m.read k := by
  simp [read_store, h]

theorem Memory.valid_store (m : Memory) (a k : Nat) (b : Byte) :
    (m.store a b).valid k = (decide (a = k) || m.valid k) := by
  unfold Memory.valid
  rw [read_store]
  split_ifs with h <;> simp [h]

theorem Memory.valid_iff (m : Memory) (k : Nat) : m.valid k = true ↔ ∃ b, m.read k = some b := by
  unfold Memory.valid
  rw [Option.isSome_iff_exists]

/-- A valid entry is listed. -/
theorem Memory.mem_of_valid {m : Memory} {k : Nat} (h : m.valid k = true) : ∃ b, (k, b) ∈ m := by
  obtain ⟨b, hb⟩ := (m.valid_iff k).mp h
  rw [read_eq_assocGet] at hb
  refine ⟨b, ?_⟩
  clear h
  induction m with
  | nil => simp at hb
  | cons e rest ih =>
    obtain ⟨a, v⟩ := e
    simp only [assocGet] at hb
    split_ifs at hb with hk
    · cases hb; exact hk ▸ List.mem_cons_self
    · exact List.mem_cons_of_mem _ (ih hb)

@[simp] theorem Memory.wf_nil : Memory.wf [] = true := rfl

theorem Memory.wf_store {m : Memory} (k : Nat) (b : Byte) (h : m.wf = true) : (m.store k b).wf = true :=
  assocSorted_set k b h

theorem Memory.validBelow_iff (m : Memory) (n : Nat) : m.validBelow n = true ↔ ∀ k < n, m.valid k = true := by
  induction n with
  | zero => simp [Memory.validBelow]
  | succ n ih =>
    simp only [Memory.validBelow, Bool.and_eq_true, ih]
    constructor
    · rintro ⟨hn, hlt⟩ k hk
      rcases Nat.lt_succ_iff_lt_or_eq.mp hk with h | h
      · exact hlt k h
      · exact h ▸ hn
    · intro h
      exact ⟨h n (Nat.lt_succ_self n), fun k hk => h k (Nat.lt_succ_of_lt hk)⟩

/-! ## Lines -/

@[simp] theorem Lines.wf_nil : Lines.wf [] = true := rfl

@[simp] theorem Lines.read_nil (pin : Word) : Lines.read [] pin = Line.powerUp := rfl

theorem Lines.sorted_of_wf {ls : Lines} (h : ls.wf = true) : assocSorted ls = true := by
  simp only [Lines.wf, Bool.and_eq_true] at h
  exact h.1

theorem Lines.read_store_same {ls : Lines} (pin : Word) (l : Line) (h : ls.wf = true) : (ls.store pin l).read pin = l := by
  unfold Lines.read Lines.store
  split_ifs with hl
  · rw [assocGet_erase_same _ (sorted_of_wf h), hl]; rfl
  · rw [assocGet_set_same]; rfl

theorem Lines.read_store_other (ls : Lines) {pin q : Word} (l : Line) (h : pin ≠ q) :
    (ls.store pin l).read q = ls.read q := by
  have hne : pin.toNat ≠ q.toNat := fun e => h (BitVec.eq_of_toNat_eq e)
  unfold Lines.read Lines.store
  split_ifs
  · rw [assocGet_erase_other hne]
  · rw [assocGet_set_other _ _ hne]

theorem Lines.wf_store {ls : Lines} (pin : Word) (l : Line) (h : ls.wf = true) : (ls.store pin l).wf = true := by
  simp only [Lines.wf, Bool.and_eq_true, List.all_eq_true, decide_eq_true_eq] at h ⊢
  unfold Lines.store
  split_ifs with hl
  · exact ⟨assocSorted_erase _ h.1, fun e he => h.2 e (mem_assocErase he)⟩
  · refine ⟨assocSorted_set _ _ h.1, fun e he => ?_⟩
    rcases mem_assocSet he with rfl | he
    · exact ⟨hl, pin.isLt⟩
    · exact h.2 e he

/-- The buffers and the lines of State.reset have their canonical form. -/
theorem State.reset_wf : State.reset.tx.wf = true ∧ State.reset.rx.wf = true ∧ State.reset.lines.wf = true := ⟨rfl, rfl, rfl⟩

/-! ## DIR and LVL -/

theorem State.dir_setLevel {s : State} (pin : Word) (l : LineLevel) (h : s.lines.wf = true) (q : Word) :
    (s.setLevel pin l).dir q = s.dir q := by
  unfold State.dir State.setLevel
  by_cases hq : pin = q
  · subst hq; rw [Lines.read_store_same _ _ h]; rfl
  · rw [Lines.read_store_other _ _ hq]

theorem State.level_setLevel {s : State} (pin : Word) (l : LineLevel) (h : s.lines.wf = true) (q : Word) :
    (s.setLevel pin l).level q = if pin = q then l else s.level q := by
  unfold State.level State.setLevel
  split_ifs with hq
  · subst hq; rw [Lines.read_store_same _ _ h]
  · rw [Lines.read_store_other _ _ hq]

theorem State.level_setDir {s : State} (pin : Word) (d : LineDir) (h : s.lines.wf = true) (q : Word) :
    (s.setDir pin d).level q = s.level q := by
  unfold State.level State.setDir
  by_cases hq : pin = q
  · subst hq; rw [Lines.read_store_same _ _ h]; rfl
  · rw [Lines.read_store_other _ _ hq]

theorem State.dir_setDir {s : State} (pin : Word) (d : LineDir) (h : s.lines.wf = true) (q : Word) :
    (s.setDir pin d).dir q = if pin = q then d else s.dir q := by
  unfold State.dir State.setDir
  split_ifs with hq
  · subst hq; rw [Lines.read_store_same _ _ h]
  · rw [Lines.read_store_other _ _ hq]

end Sys2Proof.Machine
end

