-- ==== Sys2Proof/Laws/Ops.lean ====
section
/-! SUPPORT. What each shared operation can do, said once: levels and answers, a GPIO request, a host access, a command. -/

namespace Sys2Proof.Machine

/-! ## Levels, answers -/

@[simp] theorem Level.ofVal_val (l : Level) : Level.ofVal l.val = l := by cases l <;> rfl

@[simp] theorem Dir.ofVal_val (d : Dir) : Dir.ofVal d.val = d := by cases d <;> rfl

@[simp] theorem respond_err (r : GpioRequest) (a : GpioAnswer) : (respond r a).err = a.err := rfl

theorem respond_read (pin : Word) (a : GpioAnswer) (h : a.err = false) :
    Level.ofVal (respond (gpioRead pin) a).lvl = a.lvl := by
  simp [respond, gpioRead, h]

@[simp] theorem State.answerAt_takeAnswer (s : State) (i : Nat) : s.takeAnswer.answerAt i = s.answerAt (i + 1) := by
  simp [State.answerAt, List.getElem?_tail, Nat.add_comm, Nat.add_left_comm]

/-! ## A GPIO request -/

theorem State.drive_err {s : State} (r : GpioRequest) (h : s.nextAnswer.err = true) :
    s.drive r = s.takeAnswer.setLevel r.pin .unknown := by simp [State.drive, h]

theorem State.drive_setDir {s : State} (pin : Word) (d : Dir) (h : s.nextAnswer.err = false) :
    s.drive (gpioSetDir pin d) = (s.takeAnswer.setDir pin d.line).record (.setDir pin d) := by
  simp [State.drive, State.serve, gpioSetDir, h]

theorem State.drive_write {s : State} (pin : Word) (l : Level) (h : s.nextAnswer.err = false) :
    s.drive (gpioWrite pin l) = (s.takeAnswer.setLevel pin l.line).record (.write pin l) := by
  simp [State.drive, State.serve, gpioWrite, h]

theorem State.drive_read {s : State} (pin : Word) (h : s.nextAnswer.err = false) :
    s.drive (gpioRead pin) = s.takeAnswer.record (.read pin s.nextAnswer.lvl) := by
  have := respond_read pin s.nextAnswer h
  simp [State.drive, State.serve, h, this]
  rfl

theorem State.gpio_err {s : State} (r : GpioRequest) (onAck : GpioResponse → State → State)
    (h : s.nextAnswer.err = true) : s.gpio r onAck = (s.drive r).driverError := by simp [State.gpio, h]

theorem State.gpio_ack {s : State} (r : GpioRequest) (onAck : GpioResponse → State → State)
    (h : s.nextAnswer.err = false) : s.gpio r onAck = onAck (respond r s.nextAnswer) (s.drive r) := by
  simp [State.gpio, h]

/-- Everything a request can do: it takes one answer, and it fails or is served. -/
theorem State.drive_cases (s : State) (r : GpioRequest) :
    (s.nextAnswer.err = true ∧ s.drive r = s.takeAnswer.setLevel r.pin .unknown) ∨
    (s.nextAnswer.err = false ∧ ∃ d, s.drive r = (s.takeAnswer.setDir r.pin (Dir.line d)).record (.setDir r.pin d)) ∨
    (s.nextAnswer.err = false ∧ ∃ l, s.drive r = (s.takeAnswer.setLevel r.pin (Level.line l)).record (.write r.pin l)) ∨
    (s.nextAnswer.err = false ∧ ∃ l, s.drive r = s.takeAnswer.record (.read r.pin l)) := by
  cases h : s.nextAnswer.err
  · right
    obtain ⟨k, p, v⟩ := r
    cases k
    · exact .inl ⟨rfl, _, by simp [State.drive, State.serve, h]; rfl⟩
    · exact .inr (.inl ⟨rfl, _, by simp [State.drive, State.serve, h]; rfl⟩)
    · exact .inr (.inr ⟨rfl, _, by simp [State.drive, State.serve, h]; rfl⟩)
  · exact .inl ⟨rfl, State.drive_err r h⟩

theorem State.drive_lines_wf {s : State} (r : GpioRequest) (h : s.lines.wf = true) : (s.drive r).lines.wf = true := by
  obtain ⟨-, e⟩ | ⟨-, d, e⟩ | ⟨-, l, e⟩ | ⟨-, l, e⟩ := s.drive_cases r <;> rw [e]
  · exact Lines.wf_store _ _ h
  · exact Lines.wf_store _ _ h
  · exact Lines.wf_store _ _ h
  · exact h

theorem State.drive_answerAt (s : State) (r : GpioRequest) (i : Nat) : (s.drive r).answerAt i = s.answerAt (i + 1) := by
  rw [← State.answerAt_takeAnswer]
  obtain ⟨-, e⟩ | ⟨-, d, e⟩ | ⟨-, l, e⟩ | ⟨-, l, e⟩ := s.drive_cases r <;> rw [e] <;> rfl

/-! A request changes the lines, the trace and the answers only. -/

@[simp] theorem State.drive_params (s : State) (r : GpioRequest) : (s.drive r).params = s.params := by
  obtain ⟨-, e⟩ | ⟨-, d, e⟩ | ⟨-, l, e⟩ | ⟨-, l, e⟩ := s.drive_cases r <;> rw [e] <;> rfl
@[simp] theorem State.drive_cfgCs (s : State) (r : GpioRequest) : (s.drive r).cfgCs = s.cfgCs := by
  obtain ⟨-, e⟩ | ⟨-, d, e⟩ | ⟨-, l, e⟩ | ⟨-, l, e⟩ := s.drive_cases r <;> rw [e] <;> rfl
@[simp] theorem State.drive_cfgClk (s : State) (r : GpioRequest) : (s.drive r).cfgClk = s.cfgClk := by
  obtain ⟨-, e⟩ | ⟨-, d, e⟩ | ⟨-, l, e⟩ | ⟨-, l, e⟩ := s.drive_cases r <;> rw [e] <;> rfl
@[simp] theorem State.drive_cfgMosi (s : State) (r : GpioRequest) : (s.drive r).cfgMosi = s.cfgMosi := by
  obtain ⟨-, e⟩ | ⟨-, d, e⟩ | ⟨-, l, e⟩ | ⟨-, l, e⟩ := s.drive_cases r <;> rw [e] <;> rfl
@[simp] theorem State.drive_cfgMiso (s : State) (r : GpioRequest) : (s.drive r).cfgMiso = s.cfgMiso := by
  obtain ⟨-, e⟩ | ⟨-, d, e⟩ | ⟨-, l, e⟩ | ⟨-, l, e⟩ := s.drive_cases r <;> rw [e] <;> rfl
@[simp] theorem State.drive_cfgSpeed (s : State) (r : GpioRequest) : (s.drive r).cfgSpeed = s.cfgSpeed := by
  obtain ⟨-, e⟩ | ⟨-, d, e⟩ | ⟨-, l, e⟩ | ⟨-, l, e⟩ := s.drive_cases r <;> rw [e] <;> rfl
@[simp] theorem State.drive_len (s : State) (r : GpioRequest) : (s.drive r).len = s.len := by
  obtain ⟨-, e⟩ | ⟨-, d, e⟩ | ⟨-, l, e⟩ | ⟨-, l, e⟩ := s.drive_cases r <;> rw [e] <;> rfl
@[simp] theorem State.drive_busy (s : State) (r : GpioRequest) : (s.drive r).busy = s.busy := by
  obtain ⟨-, e⟩ | ⟨-, d, e⟩ | ⟨-, l, e⟩ | ⟨-, l, e⟩ := s.drive_cases r <;> rw [e] <;> rfl
@[simp] theorem State.drive_fault (s : State) (r : GpioRequest) : (s.drive r).fault = s.fault := by
  obtain ⟨-, e⟩ | ⟨-, d, e⟩ | ⟨-, l, e⟩ | ⟨-, l, e⟩ := s.drive_cases r <;> rw [e] <;> rfl
@[simp] theorem State.drive_fcode (s : State) (r : GpioRequest) : (s.drive r).fcode = s.fcode := by
  obtain ⟨-, e⟩ | ⟨-, d, e⟩ | ⟨-, l, e⟩ | ⟨-, l, e⟩ := s.drive_cases r <;> rw [e] <;> rfl
@[simp] theorem State.drive_tx (s : State) (r : GpioRequest) : (s.drive r).tx = s.tx := by
  obtain ⟨-, e⟩ | ⟨-, d, e⟩ | ⟨-, l, e⟩ | ⟨-, l, e⟩ := s.drive_cases r <;> rw [e] <;> rfl
@[simp] theorem State.drive_rx (s : State) (r : GpioRequest) : (s.drive r).rx = s.rx := by
  obtain ⟨-, e⟩ | ⟨-, d, e⟩ | ⟨-, l, e⟩ | ⟨-, l, e⟩ := s.drive_cases r <;> rw [e] <;> rfl
@[simp] theorem State.drive_phase (s : State) (r : GpioRequest) : (s.drive r).phase = s.phase := by
  obtain ⟨-, e⟩ | ⟨-, d, e⟩ | ⟨-, l, e⟩ | ⟨-, l, e⟩ := s.drive_cases r <;> rw [e] <;> rfl
@[simp] theorem State.drive_port (s : State) (r : GpioRequest) : (s.drive r).port = s.port := by
  obtain ⟨-, e⟩ | ⟨-, d, e⟩ | ⟨-, l, e⟩ | ⟨-, l, e⟩ := s.drive_cases r <;> rw [e] <;> rfl
@[simp] theorem State.drive_nlen (s : State) (r : GpioRequest) : (s.drive r).nlen = s.nlen := by
  obtain ⟨-, e⟩ | ⟨-, d, e⟩ | ⟨-, l, e⟩ | ⟨-, l, e⟩ := s.drive_cases r <;> rw [e] <;> rfl
@[simp] theorem State.drive_j (s : State) (r : GpioRequest) : (s.drive r).j = s.j := by
  obtain ⟨-, e⟩ | ⟨-, d, e⟩ | ⟨-, l, e⟩ | ⟨-, l, e⟩ := s.drive_cases r <;> rw [e] <;> rfl
@[simp] theorem State.drive_bitn (s : State) (r : GpioRequest) : (s.drive r).bitn = s.bitn := by
  obtain ⟨-, e⟩ | ⟨-, d, e⟩ | ⟨-, l, e⟩ | ⟨-, l, e⟩ := s.drive_cases r <;> rw [e] <;> rfl
@[simp] theorem State.drive_outsr (s : State) (r : GpioRequest) : (s.drive r).outsr = s.outsr := by
  obtain ⟨-, e⟩ | ⟨-, d, e⟩ | ⟨-, l, e⟩ | ⟨-, l, e⟩ := s.drive_cases r <;> rw [e] <;> rfl
@[simp] theorem State.drive_insr (s : State) (r : GpioRequest) : (s.drive r).insr = s.insr := by
  obtain ⟨-, e⟩ | ⟨-, d, e⟩ | ⟨-, l, e⟩ | ⟨-, l, e⟩ := s.drive_cases r <;> rw [e] <;> rfl
@[simp] theorem State.drive_half (s : State) (r : GpioRequest) : (s.drive r).half = s.half := by
  obtain ⟨-, e⟩ | ⟨-, d, e⟩ | ⟨-, l, e⟩ | ⟨-, l, e⟩ := s.drive_cases r <;> rw [e] <;> rfl
@[simp] theorem State.drive_timer (s : State) (r : GpioRequest) : (s.drive r).timer = s.timer := by
  obtain ⟨-, e⟩ | ⟨-, d, e⟩ | ⟨-, l, e⟩ | ⟨-, l, e⟩ := s.drive_cases r <;> rw [e] <;> rfl
@[simp] theorem State.drive_drvReady (s : State) (r : GpioRequest) : (s.drive r).drvReady = s.drvReady := by
  obtain ⟨-, e⟩ | ⟨-, d, e⟩ | ⟨-, l, e⟩ | ⟨-, l, e⟩ := s.drive_cases r <;> rw [e] <;> rfl
@[simp] theorem State.drive_inited (s : State) (r : GpioRequest) : (s.drive r).inited = s.inited := by
  obtain ⟨-, e⟩ | ⟨-, d, e⟩ | ⟨-, l, e⟩ | ⟨-, l, e⟩ := s.drive_cases r <;> rw [e] <;> rfl
@[simp] theorem State.drive_faulted (s : State) (r : GpioRequest) : (s.drive r).faulted = s.faulted := by
  obtain ⟨-, e⟩ | ⟨-, d, e⟩ | ⟨-, l, e⟩ | ⟨-, l, e⟩ := s.drive_cases r <;> rw [e] <;> rfl
@[simp] theorem State.drive_faultPhase (s : State) (r : GpioRequest) : (s.drive r).faultPhase = s.faultPhase := by
  obtain ⟨-, e⟩ | ⟨-, d, e⟩ | ⟨-, l, e⟩ | ⟨-, l, e⟩ := s.drive_cases r <;> rw [e] <;> rfl
@[simp] theorem State.drive_answer (s : State) (r : GpioRequest) : (s.drive r).answer = s.answer := by
  obtain ⟨-, e⟩ | ⟨-, d, e⟩ | ⟨-, l, e⟩ | ⟨-, l, e⟩ := s.drive_cases r <;> rw [e] <;> rfl
@[simp] theorem State.drive_inbox (s : State) (r : GpioRequest) : (s.drive r).inbox = s.inbox := by
  obtain ⟨-, e⟩ | ⟨-, d, e⟩ | ⟨-, l, e⟩ | ⟨-, l, e⟩ := s.drive_cases r <;> rw [e] <;> rfl
@[simp] theorem State.drive_schedule (s : State) (r : GpioRequest) : (s.drive r).schedule = s.schedule := by
  obtain ⟨-, e⟩ | ⟨-, d, e⟩ | ⟨-, l, e⟩ | ⟨-, l, e⟩ := s.drive_cases r <;> rw [e] <;> rfl
@[simp] theorem State.drive_turns (s : State) (r : GpioRequest) : (s.drive r).turns = s.turns := by
  obtain ⟨-, e⟩ | ⟨-, d, e⟩ | ⟨-, l, e⟩ | ⟨-, l, e⟩ := s.drive_cases r <;> rw [e] <;> rfl

/-! ## A host access -/

theorem State.hostRead_ok {s : State} (v : Word) (h : s.fault = false) :
    s.hostRead true v = s.reply (.data v) := by simp [State.hostRead, h]

/-- Everything a read can do: nothing but the answer changes. -/
theorem State.hostRead_cases (s : State) (ok : Bool) (v : Word) :
    (s.hostRead ok v = s.reply (.data v) ∧ s.fault = false ∧ ok = true) ∨ s.hostRead ok v = s.busError := by
  unfold State.hostRead
  split_ifs with h1 h2
  · exact .inr rfl
  · exact .inl ⟨rfl, by simpa using h1, h2⟩
  · exact .inr rfl

/-- Everything a write can do: bus error, CONCURRENT, or its effect. -/
theorem State.hostWrite_cases (s : State) (f : State → State) :
    (s.fault = true ∧ s.hostWrite f = s.busError) ∨
    (s.fault = false ∧ s.busy = true ∧ s.hostWrite f = (s.raiseFault .concurrent).reply .done) ∨
    (s.fault = false ∧ s.busy = false ∧ s.hostWrite f = (f s).reply .done) := by
  unfold State.hostWrite
  cases h1 : s.fault <;> cases h2 : s.busy <;> simp

/-! ## A command -/

theorem Port.distinct_iff (p : Port) : p.distinct = true ↔
    p.cs ≠ p.clk ∧ p.cs ≠ p.mosi ∧ p.cs ≠ p.miso ∧ p.clk ≠ p.mosi ∧ p.clk ≠ p.miso ∧ p.mosi ≠ p.miso := by
  simp [Port.distinct, and_assoc]

theorem Port.speedOk_iff (p : Port) : p.speedOk = true ↔ 0 < s32 p.speed := by simp [Port.speedOk]

@[simp] theorem cmdOp_init : cmdOp CmdOp.init.word = some .init := by decide

@[simp] theorem cmdOp_xfer : cmdOp CmdOp.xfer.word = some .xfer := by decide

theorem State.portFault_none {s : State} (h : s.portFault = none) :
    s.drvReady = true ∧ s.cfgPort.distinct = true ∧ s.cfgPort.speedOk = true := by
  unfold State.portFault at h
  split_ifs at h with h1 h2 h3
  exact ⟨by simpa using h1, by simpa using h2, by simpa using h3⟩

theorem State.transferFault_none {s : State} (h : s.transferFault = none) :
    s.len.toNat ≤ s.bufBytes ∧ s.tx.validBelow s.len.toNat = true ∧ s.initialized = true := by
  unfold State.transferFault at h
  split_ifs at h with h1 h2 h3
  exact ⟨by omega, by simpa using h2, by simpa using h3⟩

/-- Everything an issued command can do: its first fault, INIT accepted or XFER accepted. -/
theorem State.command_cases (s : State) (v : Word) :
    (∃ c, s.commandFault v = some c ∧ s.command v = s.raiseFault c) ∨
    (cmdOp v = some .init ∧ s.portFault = none ∧ s.command v = s.acceptInit) ∨
    (cmdOp v = some .xfer ∧ s.portFault = none ∧ s.transferFault = none ∧ s.command v = s.acceptXfer) := by
  cases h : s.commandFault v with
  | some c => exact .inl ⟨c, rfl, by simp [State.command, h]⟩
  | none =>
    right
    unfold State.commandFault at h
    cases hv : cmdOp v with
    | none => simp [hv] at h
    | some op =>
      cases op with
      | init =>
        simp only [hv] at h
        exact .inl ⟨rfl, h, by simp [State.command, State.commandFault, hv, h]⟩
      | xfer =>
        simp only [hv] at h
        cases hp : s.portFault with
        | some c => simp [hp] at h
        | none =>
          simp only [hp] at h
          exact .inr ⟨rfl, rfl, h, by simp [State.command, State.commandFault, hv, hp, h]⟩

/-! ## What the step runs -/

theorem State.fetch_quiet {s : State} (h : s.inbox = []) : s.fetch = (.run s.microOp, s) := by
  simp [State.fetch, State.mover, State.takeTurn, h]

theorem State.fetch_host {s : State} {i : Input} {rest : List Input} (h : s.inbox = i :: rest) (hb : s.busy = false) :
    s.fetch = (fetchInput s.params i, s.popInput.platform i) := by
  simp [State.fetch, State.mover, State.takeTurn, h, hb]

end Sys2Proof.Machine
end

