-- ==== Sys2Proof/Laws/PerInstr.lean ====
section
/-! SUPPORT. Facts about every instruction as syntax, one lemma per constructor. TableRow: the encoding of an instruction agrees with its
row of spec/opcode_table.json, under the row's mask. -/

namespace Sys2Proof

/-- A code word under a mask is the row's match: a descriptor for a `bus` row, a phase code for a `seq` row. -/
def CodeWord.matchesRow (mask pat : Nat) : CodeWord → Prop
  | .bus d => d &&& BitVec.ofNat 64 mask = BitVec.ofNat 64 pat
  | .seq c => c &&& BitVec.ofNat 5 mask = BitVec.ofNat 5 pat

/-- The (mask, match) of the row (spec/opcode_table.json). -/
def Instr.row : Instr → Nat × Nat
  | .rdCfgCs => (0xFFFFFFFFFFFFFFFF, 0x0000000000000000)
  | .wrCfgCs _ => (0xFFFFFFFF00000000, 0x8000000000000000)
  | .rdCfgClk => (0xFFFFFFFFFFFFFFFF, 0x0000000400000000)
  | .wrCfgClk _ => (0xFFFFFFFF00000000, 0x8000000400000000)
  | .rdCfgMosi => (0xFFFFFFFFFFFFFFFF, 0x0000000800000000)
  | .wrCfgMosi _ => (0xFFFFFFFF00000000, 0x8000000800000000)
  | .rdCfgMiso => (0xFFFFFFFFFFFFFFFF, 0x0000000C00000000)
  | .wrCfgMiso _ => (0xFFFFFFFF00000000, 0x8000000C00000000)
  | .rdCfgSpeed => (0xFFFFFFFFFFFFFFFF, 0x0000001000000000)
  | .wrCfgSpeed _ => (0xFFFFFFFF00000000, 0x8000001000000000)
  | .rdLen => (0xFFFFFFFFFFFFFFFF, 0x0000001400000000)
  | .wrLen _ => (0xFFFFFFFF00000000, 0x8000001400000000)
  | .rdCmd => (0xFFFFFFFFFFFFFFFF, 0x0000001800000000)
  | .init => (0xFFFFFFFFFFFFFFFF, 0x8000001800000001)
  | .xfer => (0xFFFFFFFFFFFFFFFF, 0x8000001800000002)
  | .cmdReserved _ => (0xFFFFFFFF00000000, 0x8000001800000000)
  | .rdStatus => (0xFFFFFFFFFFFFFFFF, 0x0000001C00000000)
  | .wrStatus _ => (0xFFFFFFFF00000000, 0x8000001C00000000)
  | .rdHalfNs => (0xFFFFFFFFFFFFFFFF, 0x0000002000000000)
  | .wrHalfNs _ => (0xFFFFFFFF00000000, 0x8000002000000000)
  | .rdTxbuf _ => (0xFFFFF003FFFFFFFF, 0x0000100000000000)
  | .wrTxbuf _ _ => (0xFFFFF00300000000, 0x8000100000000000)
  | .rdRxbuf _ => (0xFFFFF003FFFFFFFF, 0x0000200000000000)
  | .wrRxbuf _ _ => (0xFFFFF00300000000, 0x8000200000000000)
  | .accessUnmapped _ _ _ => (0x0000000000000000, 0x0000000000000000)
  | .idle => (0x1F, 0x00)
  | .iDirCs => (0x1F, 0x01)
  | .iDirClk => (0x1F, 0x02)
  | .iDirMosi => (0x1F, 0x03)
  | .iDirMiso => (0x1F, 0x04)
  | .iCsHi => (0x1F, 0x05)
  | .iClkHi => (0x1F, 0x06)
  | .xCsLo => (0x1F, 0x07)
  | .xLoad => (0x1F, 0x08)
  | .xClkLo => (0x1F, 0x09)
  | .xMosi => (0x1F, 0x0A)
  | .xHold1 => (0x1F, 0x0B)
  | .xClkHi => (0x1F, 0x0C)
  | .xSample => (0x1F, 0x0D)
  | .xHold2 => (0x1F, 0x0E)
  | .xShift => (0x1F, 0x0F)
  | .xStore => (0x1F, 0x10)
  | .xCsHi => (0x1F, 0x11)
  | .phaseUnused12 _ => (0x1E, 0x12)
  | .phaseUnused14 _ => (0x1C, 0x14)
  | .phaseUnused18 _ => (0x18, 0x18)

open Machine

/-- The encoding of an instruction is in its row. -/
def Laws.TableRow.Statement (i : Instr) : Prop := (encode i).matchesRow i.row.1 i.row.2

theorem Laws.TableRow.rdCfgCs : Laws.TableRow.Statement .rdCfgCs := rfl

theorem Laws.TableRow.wrCfgCs (v : Word) : Laws.TableRow.Statement (.wrCfgCs v) := by
  exact (and_descriptor_control true _ v).trans (show descriptor true 0x0000 0 = 0x8000000000000000#64 by decide)

theorem Laws.TableRow.rdCfgClk : Laws.TableRow.Statement .rdCfgClk := rfl

theorem Laws.TableRow.wrCfgClk (v : Word) : Laws.TableRow.Statement (.wrCfgClk v) := by
  exact (and_descriptor_control true _ v).trans (show descriptor true 0x0004 0 = 0x8000000400000000#64 by decide)

theorem Laws.TableRow.rdCfgMosi : Laws.TableRow.Statement .rdCfgMosi := rfl

theorem Laws.TableRow.wrCfgMosi (v : Word) : Laws.TableRow.Statement (.wrCfgMosi v) := by
  exact (and_descriptor_control true _ v).trans (show descriptor true 0x0008 0 = 0x8000000800000000#64 by decide)

theorem Laws.TableRow.rdCfgMiso : Laws.TableRow.Statement .rdCfgMiso := rfl

theorem Laws.TableRow.wrCfgMiso (v : Word) : Laws.TableRow.Statement (.wrCfgMiso v) := by
  exact (and_descriptor_control true _ v).trans (show descriptor true 0x000c 0 = 0x8000000C00000000#64 by decide)

theorem Laws.TableRow.rdCfgSpeed : Laws.TableRow.Statement .rdCfgSpeed := rfl

theorem Laws.TableRow.wrCfgSpeed (v : Word) : Laws.TableRow.Statement (.wrCfgSpeed v) := by
  exact (and_descriptor_control true _ v).trans (show descriptor true 0x0010 0 = 0x8000001000000000#64 by decide)

theorem Laws.TableRow.rdLen : Laws.TableRow.Statement .rdLen := rfl

theorem Laws.TableRow.wrLen (v : Word) : Laws.TableRow.Statement (.wrLen v) := by
  exact (and_descriptor_control true _ v).trans (show descriptor true 0x0014 0 = 0x8000001400000000#64 by decide)

theorem Laws.TableRow.rdCmd : Laws.TableRow.Statement .rdCmd := rfl

theorem Laws.TableRow.init : Laws.TableRow.Statement .init := rfl

theorem Laws.TableRow.xfer : Laws.TableRow.Statement .xfer := rfl

theorem Laws.TableRow.cmdReserved (v : Word) : Laws.TableRow.Statement (.cmdReserved v) := by
  exact (and_descriptor_control true _ v).trans (show descriptor true 0x0018 0 = 0x8000001800000000#64 by decide)

theorem Laws.TableRow.rdStatus : Laws.TableRow.Statement .rdStatus := rfl

theorem Laws.TableRow.wrStatus (v : Word) : Laws.TableRow.Statement (.wrStatus v) := by
  exact (and_descriptor_control true _ v).trans (show descriptor true 0x001c 0 = 0x8000001C00000000#64 by decide)

theorem Laws.TableRow.rdHalfNs : Laws.TableRow.Statement .rdHalfNs := rfl

theorem Laws.TableRow.wrHalfNs (v : Word) : Laws.TableRow.Statement (.wrHalfNs v) := by
  exact (and_descriptor_control true _ v).trans (show descriptor true 0x0020 0 = 0x8000002000000000#64 by decide)

theorem Laws.TableRow.rdTxbuf (k : BitVec 10) : Laws.TableRow.Statement (.rdTxbuf k) := by
  simp only [Laws.TableRow.Statement, CodeWord.matchesRow, encode, Instr.row, descriptor, txOffset]
  apply BitVec.eq_of_getLsbD_eq
  intro i hi
  simp only [BitVec.getLsbD_and, BitVec.getLsbD_append]
  interval_cases i <;> simp

theorem Laws.TableRow.wrTxbuf (k : BitVec 10) (v : Word) : Laws.TableRow.Statement (.wrTxbuf k v) := by
  exact (and_descriptor_txOffset true k v).trans (show descriptor true 0x1000 0 = 0x8000100000000000#64 by decide)

theorem Laws.TableRow.rdRxbuf (k : BitVec 10) : Laws.TableRow.Statement (.rdRxbuf k) := by
  simp only [Laws.TableRow.Statement, CodeWord.matchesRow, encode, Instr.row, descriptor, rxOffset]
  apply BitVec.eq_of_getLsbD_eq
  intro i hi
  simp only [BitVec.getLsbD_and, BitVec.getLsbD_append]
  interval_cases i <;> simp

theorem Laws.TableRow.wrRxbuf (k : BitVec 10) (v : Word) : Laws.TableRow.Statement (.wrRxbuf k v) := by
  exact (and_descriptor_rxOffset true k v).trans (show descriptor true 0x2000 0 = 0x8000200000000000#64 by decide)

theorem Laws.TableRow.accessUnmapped (write : Bool) (off : BitVec 16) (data : Word) : Laws.TableRow.Statement (.accessUnmapped write off data) := by
  simp [Laws.TableRow.Statement, CodeWord.matchesRow, encode, Instr.row]

theorem Laws.TableRow.idle : Laws.TableRow.Statement .idle := rfl

theorem Laws.TableRow.iDirCs : Laws.TableRow.Statement .iDirCs := rfl

theorem Laws.TableRow.iDirClk : Laws.TableRow.Statement .iDirClk := rfl

theorem Laws.TableRow.iDirMosi : Laws.TableRow.Statement .iDirMosi := rfl

theorem Laws.TableRow.iDirMiso : Laws.TableRow.Statement .iDirMiso := rfl

theorem Laws.TableRow.iCsHi : Laws.TableRow.Statement .iCsHi := rfl

theorem Laws.TableRow.iClkHi : Laws.TableRow.Statement .iClkHi := rfl

theorem Laws.TableRow.xCsLo : Laws.TableRow.Statement .xCsLo := rfl

theorem Laws.TableRow.xLoad : Laws.TableRow.Statement .xLoad := rfl

theorem Laws.TableRow.xClkLo : Laws.TableRow.Statement .xClkLo := rfl

theorem Laws.TableRow.xMosi : Laws.TableRow.Statement .xMosi := rfl

theorem Laws.TableRow.xHold1 : Laws.TableRow.Statement .xHold1 := rfl

theorem Laws.TableRow.xClkHi : Laws.TableRow.Statement .xClkHi := rfl

theorem Laws.TableRow.xSample : Laws.TableRow.Statement .xSample := rfl

theorem Laws.TableRow.xHold2 : Laws.TableRow.Statement .xHold2 := rfl

theorem Laws.TableRow.xShift : Laws.TableRow.Statement .xShift := rfl

theorem Laws.TableRow.xStore : Laws.TableRow.Statement .xStore := rfl

theorem Laws.TableRow.xCsHi : Laws.TableRow.Statement .xCsHi := rfl

theorem Laws.TableRow.phaseUnused12 (low : BitVec 1) : Laws.TableRow.Statement (.phaseUnused12 low) := by
  simp only [Laws.TableRow.Statement, CodeWord.matchesRow, encode, Instr.row]
  revert low; decide

theorem Laws.TableRow.phaseUnused14 (low : BitVec 2) : Laws.TableRow.Statement (.phaseUnused14 low) := by
  simp only [Laws.TableRow.Statement, CodeWord.matchesRow, encode, Instr.row]
  revert low; decide

theorem Laws.TableRow.phaseUnused18 (low : BitVec 3) : Laws.TableRow.Statement (.phaseUnused18 low) := by
  simp only [Laws.TableRow.Statement, CodeWord.matchesRow, encode, Instr.row]
  revert low; decide

end Sys2Proof
end

