-- ==== Sys2Proof/Machine/Assembler.lean ====
section
/-! DEFINITION. The test-program language (30_encoding.md R122, R123): access lines, pseudo-instructions and their expansion into the
host's inputs, and the reading of one line of text. -/

namespace Sys2Proof.Machine

/-- A register as a program names it (R122). -/
inductive RegName where
  | ctl (r : CtlReg)
  | txbuf (k : BitVec 10)
  | rxbuf (k : BitVec 10)
  | num (off : BitVec 16)
  deriving DecidableEq, Repr

/-- Its offset (10_state.md R30). -/
def RegName.offset : RegName → BitVec 16
  | .ctl r => r.offset
  | .txbuf k => txOffset k
  | .rxbuf k => rxOffset k
  | .num off => off

/-- One line of a program: an access or a pseudo-instruction (R122, R123). -/
inductive AsmLine where
  | wr (r : RegName) (v : Word)
  | rd (r : RegName)
  | setport (cs clk mosi miso hz : Word)
  | init
  | xfer
  | loadtx (k : BitVec 10) (b : Word)
  | poll
  | send (bytes : List Word)
  deriving DecidableEq, Repr

/-- `WR reg, v` (R122): W = 1. -/
def asmWr (r : RegName) (v : Word) : Input := .access 32 (descriptor true r.offset v)

/-- `RD reg` (R122): W = 0, DATA = 0. -/
def asmRd (r : RegName) : Input := .access 32 (descriptor false r.offset 0)

/-- `LOADTX k, b` for consecutive k. -/
def asmLoad : Nat → List Word → List Input
  | _, [] => []
  | k, b :: rest => asmWr (.txbuf (BitVec.ofNat 10 k)) b :: asmLoad (k + 1) rest

/-- The expansions of R123. -/
def AsmLine.expand : AsmLine → List Input
  | .wr r v => [asmWr r v]
  | .rd r => [asmRd r]
  | .setport cs clk mosi miso hz =>
    [asmWr (.ctl .cfgCs) cs, asmWr (.ctl .cfgClk) clk, asmWr (.ctl .cfgMosi) mosi, asmWr (.ctl .cfgMiso) miso,
      asmWr (.ctl .cfgSpeed) hz]
  | .init => [asmWr (.ctl .cmd) 0x00000001]
  | .xfer => [asmWr (.ctl .cmd) 0x00000002]
  | .loadtx k b => [asmWr (.txbuf k) b]
  | .poll => [.poll]
  | .send bytes =>
    asmLoad 0 bytes ++ [asmWr (.ctl .len) (BitVec.ofNat 32 bytes.length), asmWr (.ctl .cmd) 0x00000002, .poll]

/-- A program as the host's inputs. -/
def assemble (p : List AsmLine) : List Input := p.flatMap AsmLine.expand

/-! ## Reading a line of text (R122, log 28) -/

/-- The value of a digit in base 2, 10 or 16. -/
def digitVal (base : Nat) (c : Char) : Option Nat :=
  let n := c.toNat
  let v := if 48 ≤ n ∧ n ≤ 57 then n - 48 else if 65 ≤ n ∧ n ≤ 70 then n - 55 else if 97 ≤ n ∧ n ≤ 102 then n - 87 else 99
  if v < base then some v else none

/-- The digits of a number, most significant first. -/
def digitsVal (base : Nat) : Nat → List Char → Option Nat
  | acc, [] => some acc
  | acc, c :: cs =>
    match digitVal base c with
    | some d => digitsVal base (acc * base + d) cs
    | none => none

/-- An unsigned literal: decimal, `0x` hexadecimal or `0b` binary. -/
def natLit : List Char → Option Nat
  | [] => none
  | '0' :: 'x' :: c :: cs => digitsVal 16 0 (c :: cs)
  | '0' :: 'b' :: c :: cs => digitsVal 2 0 (c :: cs)
  | c :: cs => digitsVal 10 0 (c :: cs)

/-- A value of 32 bits: an unsigned literal, or a negative decimal as its two's complement. -/
def wordLit : List Char → Option Word
  | '-' :: c :: cs =>
    match digitsVal 10 0 (c :: cs) with
    | some n => if n ≤ 2147483648 then some (BitVec.ofInt 32 (-(n : Int))) else none
    | none => none
  | cs =>
    match natLit cs with
    | some n => if n < 4294967296 then some (BitVec.ofNat 32 n) else none
    | none => none

/-- An index of TXBUF or RXBUF as OFF can hold it. -/
def indexLit (cs : List Char) : Option (BitVec 10) :=
  match natLit cs with
  | some n => if n < 1024 then some (BitVec.ofNat 10 n) else none
  | none => none

/-- The index in `[k]`. -/
def bracketIndex : List Char → Option (BitVec 10)
  | '[' :: cs => if cs.getLast? = some ']' then indexLit cs.dropLast else none
  | _ => none

/-- The control registers' names (10_state.md R30). -/
def ctlNames : List (List Char × CtlReg) :=
  [(['C', 'F', 'G', '_', 'C', 'S'], .cfgCs), (['C', 'F', 'G', '_', 'C', 'L', 'K'], .cfgClk),
    (['C', 'F', 'G', '_', 'M', 'O', 'S', 'I'], .cfgMosi), (['C', 'F', 'G', '_', 'M', 'I', 'S', 'O'], .cfgMiso),
    (['C', 'F', 'G', '_', 'S', 'P', 'E', 'E', 'D'], .cfgSpeed), (['L', 'E', 'N'], .len), (['C', 'M', 'D'], .cmd),
    (['S', 'T', 'A', 'T', 'U', 'S'], .status), (['H', 'A', 'L', 'F', '_', 'N', 'S'], .halfNs)]

/-- `<reg>`: a register name, `TXBUF[k]`, `RXBUF[k]` or a number. -/
def regName (cs : List Char) : Option RegName :=
  match ctlNames.find? (fun e => e.1 = cs) with
  | some e => some (.ctl e.2)
  | none =>
    match cs with
    | 'T' :: 'X' :: 'B' :: 'U' :: 'F' :: k => (bracketIndex k).map .txbuf
    | 'R' :: 'X' :: 'B' :: 'U' :: 'F' :: k => (bracketIndex k).map .rxbuf
    | _ =>
      match natLit cs with
      | some n => if n < 65536 then some (.num (BitVec.ofNat 16 n)) else none
      | none => none

/-- Tokens: blanks and commas separate, `;` starts a comment. -/
def tokens : List Char → List Char → List (List Char)
  | acc, [] => if acc.isEmpty then [] else [acc.reverse]
  | acc, c :: cs =>
    if c = ';' then (if acc.isEmpty then [] else [acc.reverse])
    else if c = ' ' ∨ c = ',' ∨ c = '\t' then
      (if acc.isEmpty then tokens [] cs else acc.reverse :: tokens [] cs)
    else tokens (c :: acc) cs

/-- A leading `label:` only names the line. -/
def dropLabel : List (List Char) → List (List Char)
  | [] => []
  | t :: ts => if t.getLast? = some ':' then ts else t :: ts

/-- Every token a value. -/
def wordLits : List (List Char) → Option (List Word)
  | [] => some []
  | t :: ts =>
    match wordLit t, wordLits ts with
    | some w, some ws => some (w :: ws)
    | _, _ => none

/-- The line that the tokens spell; `none` when they spell none. -/
def lineOfTokens : List (List Char) → Option AsmLine
  | [['W', 'R'], r, v] =>
    match regName r, wordLit v with
    | some r, some v => some (.wr r v)
    | _, _ => none
  | [['R', 'D'], r] => (regName r).map .rd
  | [['I', 'N', 'I', 'T']] => some .init
  | [['X', 'F', 'E', 'R']] => some .xfer
  | [['P', 'O', 'L', 'L']] => some .poll
  | [['L', 'O', 'A', 'D', 'T', 'X'], k, b] =>
    match indexLit k, wordLit b with
    | some k, some b => some (.loadtx k b)
    | _, _ => none
  | ['S', 'E', 'T', 'P', 'O', 'R', 'T'] :: args =>
    match wordLits args with
    | some [cs, clk, mosi, miso, hz] => some (.setport cs clk mosi miso hz)
    | _ => none
  | ['S', 'E', 'N', 'D'] :: n :: args =>
    match natLit n, wordLits args with
    | some n, some bytes => if n = bytes.length ∧ n ≤ 1024 then some (.send bytes) else none
    | _, _ => none
  | _ => none

/-- One line of a program. -/
def parseLine (text : List Char) : Option AsmLine := lineOfTokens (dropLabel (tokens [] text))

end Sys2Proof.Machine
end

