-- ==== Sys2Proof/Tests/Slice0.lean ====
section
/-! SUPPORT. The model's own tests, each on one step of a small state: expected values from spec/95_test_vectors.md (the vector is named) or,
where a rule is named, worked out by hand from it; and a witness for the hypotheses of every obligation. -/

namespace Sys2Proof.Tests

open Sys2Proof Machine

/-! ## Well-formedness: each check refuses an ill-formed term (R124, R125, R112) -/

theorem test_wf_refuses_init_word : (Instr.cmdReserved 1).wf = false := by decide
theorem test_wf_refuses_xfer_word : (Instr.cmdReserved 2).wf = false := by decide
theorem test_wf_refuses_mapped_offset : (Instr.accessUnmapped true 0x01C 0).wf = false := by decide
theorem test_wf_refuses_read_data : (Instr.accessUnmapped false 0x024 1).wf = false := by decide
theorem test_wf_accepts : (Instr.cmdReserved 5).wf = true ∧ (Instr.accessUnmapped false 0x01E 0).wf = true := by decide

/-! ## Decoding: words of V1.1, V1.2, V1.3, V2 and, where none is given, written out from R111, R112 and R120 -/

theorem test_decode_port_registers :
    decodeTableWord 64 0x0000000000000000 = some .rdCfgCs ∧ decodeTableWord 64 0x8000000000000008 = some (.wrCfgCs 8) ∧
    decodeTableWord 64 0x0000000400000000 = some .rdCfgClk ∧ decodeTableWord 64 0x800000040000000B = some (.wrCfgClk 11) ∧
    decodeTableWord 64 0x0000000800000000 = some .rdCfgMosi ∧ decodeTableWord 64 0x800000080000000A = some (.wrCfgMosi 10) ∧
    decodeTableWord 64 0x0000000C00000000 = some .rdCfgMiso ∧ decodeTableWord 64 0x8000000C00000009 = some (.wrCfgMiso 9) ∧
    decodeTableWord 64 0x0000001000000000 = some .rdCfgSpeed ∧
    decodeTableWord 64 0x80000010FFFFFFFF = some (.wrCfgSpeed (BitVec.ofInt 32 (-1))) ∧
    decodeTableWord 64 0x0000001400000000 = some .rdLen ∧ decodeTableWord 64 0x8000001400000002 = some (.wrLen 2) := by decide

theorem test_decode_command_and_status :
    decodeTableWord 64 0x0000001800000000 = some .rdCmd ∧ decodeTableWord 64 0x8000001800000001 = some .init ∧
    decodeTableWord 64 0x8000001800000002 = some .xfer ∧ decodeTableWord 64 0x8000001880000001 = some (.cmdReserved 0x80000001) ∧
    decodeTableWord 64 0x0000001C00000000 = some .rdStatus ∧ decodeTableWord 64 0x8000001C00000000 = some (.wrStatus 0) ∧
    decodeTableWord 64 0x0000002000000000 = some .rdHalfNs ∧ decodeTableWord 64 0x8000002000000005 = some (.wrHalfNs 5) := by decide

theorem test_decode_buffers :
    decodeTableWord 64 0x0000100400000000 = some (.rdTxbuf 1) ∧ decodeTableWord 64 0x80001000000000B2 = some (.wrTxbuf 0 0xB2) ∧
    decodeTableWord 64 0x80001FFC00000001 = some (.wrTxbuf 1023 1) ∧ decodeTableWord 64 0x0000200800000000 = some (.rdRxbuf 2) ∧
    decodeTableWord 64 0x8000200000000000 = some (.wrRxbuf 0 0) := by decide

theorem test_decode_unmapped :
    decodeTableWord 64 0x0000002400000000 = some (.accessUnmapped false 0x024 0) ∧
    decodeTableWord 64 0x0000001E00000000 = some (.accessUnmapped false 0x01E 0) ∧
    decodeTableWord 64 0x8000300000000007 = some (.accessUnmapped true 0x3000 7) ∧
    decodeTableWord 64 0x0000500000000000 = some (.accessUnmapped false 0x5000 0) := by decide

theorem test_decode_refuses :
    decodeBus 0x0001001C00000000 = .refuse .reservedBitsSet ∧ decodeBus 0x0000001C00000001 = .refuse .readWithData := by decide

theorem test_decode_phases_of_init :
    decodeTableWord 8 0x00 = some .idle ∧ decodeTableWord 8 0x01 = some .iDirCs ∧ decodeTableWord 8 0x02 = some .iDirClk ∧
    decodeTableWord 8 0x03 = some .iDirMosi ∧ decodeTableWord 8 0x04 = some .iDirMiso ∧ decodeTableWord 8 0x05 = some .iCsHi ∧
    decodeTableWord 8 0x06 = some .iClkHi := by decide

theorem test_decode_phases_of_xfer :
    decodeTableWord 8 0x07 = some .xCsLo ∧ decodeTableWord 8 0x08 = some .xLoad ∧ decodeTableWord 8 0x09 = some .xClkLo ∧
    decodeTableWord 8 0x0A = some .xMosi ∧ decodeTableWord 8 0x0B = some .xHold1 ∧ decodeTableWord 8 0x0C = some .xClkHi ∧
    decodeTableWord 8 0x0D = some .xSample ∧ decodeTableWord 8 0x0E = some .xHold2 ∧ decodeTableWord 8 0x0F = some .xShift ∧
    decodeTableWord 8 0x10 = some .xStore ∧ decodeTableWord 8 0x11 = some .xCsHi := by decide

theorem test_decode_unused_phases :
    decodeTableWord 8 0x13 = some (.phaseUnused12 1) ∧ decodeTableWord 8 0x16 = some (.phaseUnused14 2) ∧
    decodeTableWord 8 0x1D = some (.phaseUnused18 5) := by decide

/-! V1.4: the 34 bits of a request, and the response. -/

theorem test_gpio_bits :
    (gpioSetDir 8 .output).bits = 0x000000008 ∧ (gpioSetDir 9 .input).val = false ∧ (gpioWrite 8 .high).bits = 0x100000008 ∧
    (gpioRead 9).bits = 0x200000009 ∧ (respond (gpioRead 9) ⟨false, .high⟩).bits = 0b01 ∧
    (respond (gpioRead 9) ⟨true, .high⟩).bits = 0b10 := by decide

/-! R122, R123. -/

theorem test_assembler_access : parseLine "WR CFG_SPEED, -1 ; V1.1".toList = some (.wr (.ctl .cfgSpeed) 0xFFFFFFFF) ∧
    AsmLine.expand (.wr (.ctl .cfgSpeed) 0xFFFFFFFF) = [.access 32 0x80000010FFFFFFFF] := by decide

theorem test_assembler_send : (parseLine "SEND 2, 0x9F, 0x100".toList).map AsmLine.expand =
    some [.access 32 0x800010000000009F, .access 32 0x8000100400000100, .access 32 0x8000001400000002,
      .access 32 0x8000001800000002, .poll] := by decide

/-! ## States -/

/-- After reset, with BUF_BYTES = 4, BLOCK_BASE = 0x8000 and TICK_NS = 10 (95_test_vectors.md section 0). -/
def s0 : State := { State.reset with params := ⟨3, 2, 9⟩ }

/-- Port A of 95_test_vectors.md. -/
def portA : Port := ⟨8, 11, 10, 9, 1000000⟩

/-- Port A written. -/
def sA : State := { s0 with cfgCs := 8, cfgClk := 11, cfgMosi := 10, cfgMiso := 9, cfgSpeed := 1000000 }

/-- INIT of port A accepted, every request to come acknowledged. -/
def sInit : State :=
  { sA with port := portA, busy := true, phase := 0x01, answers := List.replicate 16 ⟨false, .low⟩ }

/-- The lines after INIT of port A (V3.1). -/
def linesA : Lines := [(8, ⟨.output, .high⟩), (9, ⟨.input, .unknown⟩), (10, ⟨.output, .unknown⟩), (11, ⟨.output, .high⟩)]

/-- Port A initialized, TX[0] = 0xFF, LEN = n. -/
def sReady (n : Nat) : State :=
  { sA with lines := linesA, inited := [portA], tx := [(0, 0xFF)], len := BitVec.ofNat 32 n }

/-- An XFER of n bytes accepted (n = 0 or 1), every answer high and acknowledged. -/
def sXfer (n : Nat) : State :=
  { sReady n with port := portA, nlen := BitVec.ofNat 32 n, half := 500, busy := true, phase := 0x07,
                  answers := List.replicate 34 ⟨false, .high⟩ }

/-- The fault state of BAD_SPEED. -/
def sFault : State := { sA with fault := true, faulted := true, fcode := 0x5 }

/-- `s` with the next GPIO request failed. -/
def failing (s : State) : State := { s with answers := ⟨true, .low⟩ :: s.answers }

/-- The response an access got. -/
def answerOf (o : Host.Outcome State Fault Refusal) : Option BusAnswer := (stateOf o).bind (·.answer)

/-- STATUS after a step. -/
def statusOf (o : Host.Outcome State Fault Refusal) : Option Word := (stateOf o).map State.status

/-- The trace after a step. -/
def traceOf (o : Host.Outcome State Fault Refusal) : Option (List Event) := (stateOf o).map (·.trace)

/-- The phase after a step. -/
def phaseOf (o : Host.Outcome State Fault Refusal) : Option (BitVec 5) := (stateOf o).map (·.phase)

/-! ## Host accesses -/

theorem test_v2_1_reads_after_reset :
    ∀ i ∈ [Instr.rdCfgCs, .rdCfgClk, .rdCfgMosi, .rdCfgMiso, .rdCfgSpeed, .rdLen, .rdStatus],
      answerOf (exec i s0) = some (.data 0) := by decide

theorem test_v2_3_bus_errors_after_reset :
    ∀ i ∈ [Instr.rdHalfNs, .rdTxbuf 0, .rdRxbuf 0, .rdCmd, .wrStatus 0, .wrHalfNs 5, .wrRxbuf 0 0, .accessUnmapped false 0x024 0,
        .rdTxbuf 4, .rdRxbuf 4, .wrTxbuf 4 0],
      answerOf (exec i s0) = some .busError := by decide

theorem test_v2_20_reads_return_their_own_register :
    answerOf (exec .rdCfgCs sInit) = some (.data 8) ∧ answerOf (exec .rdCfgClk sInit) = some (.data 11) ∧
    answerOf (exec .rdCfgMosi sInit) = some (.data 10) ∧ answerOf (exec .rdCfgMiso sInit) = some (.data 9) ∧
    answerOf (exec .rdCfgSpeed sInit) = some (.data 1000000) ∧ answerOf (exec .rdHalfNs sInit) = some (.data 0x1F4) ∧
    answerOf (exec .rdStatus sInit) = some (.data 1) ∧ answerOf (exec .rdLen (sReady 2)) = some (.data 2) := by decide

theorem test_v2_12_writes_store_in_their_own_register :
    (stateOf (exec (.wrCfgCs 0xFFFFFFFF) s0)).map (·.cfgCs) = some 0xFFFFFFFF ∧
    (stateOf (exec (.wrCfgClk 11) s0)).map (·.cfgClk) = some 11 ∧
    (stateOf (exec (.wrCfgMosi 10) s0)).map (·.cfgMosi) = some 10 ∧
    (stateOf (exec (.wrCfgMiso 9) s0)).map (·.cfgMiso) = some 9 ∧
    (stateOf (exec (.wrCfgSpeed 0xFFFFFFFF) s0)).map (·.cfgSpeed) = some 0xFFFFFFFF ∧
    (stateOf (exec (.wrLen 0xFFFFFFFF) s0)).map (·.len) = some 0xFFFFFFFF := by decide

theorem test_v2_15_txbuf_drops_the_upper_bits :
    (stateOf (exec (.wrTxbuf 1 0x100) s0)).map (·.tx) = some [(1, 0x00)] ∧
    answerOf (exec (.rdTxbuf 0) { s0 with tx := [(0, 0xB2)] }) = some (.data 0xB2) := by decide

theorem test_p1_12_rxbuf_after_a_byte : answerOf (exec (.rdRxbuf 0) { sA with rx := [(0, 0xB2)] }) = some (.data 0xB2) ∧
    answerOf (exec (.rdRxbuf 1) { sA with rx := [(0, 0xB2)] }) = some .busError := by decide

theorem test_v2_22_while_busy : answerOf (exec (.rdRxbuf 0) { sInit with rx := [(0, 1)] }) = some .busError ∧
    answerOf (exec (.wrRxbuf 0 0) sInit) = some .busError ∧ statusOf (exec (.wrLen 1) sInit) = some 0x12 := by decide

theorem test_v2_26_after_a_fault :
    ∀ i ∈ [Instr.rdCfgCs, .wrCfgCs 1, .init, .rdHalfNs, .accessUnmapped false 0x024 0],
      answerOf (exec i sFault) = some .busError ∧ statusOf (exec i sFault) = some 0x52 := by decide

theorem test_v2_14_negative_speed_has_no_half_period :
    answerOf (exec .rdHalfNs { s0 with cfgSpeed := 0xFFFFFFFF }) = some .busError := by decide

/-! ## Commands: V1.3, V3.3, V3.4, V4.10, V5.2 -/

theorem test_v3_3_init_reads_no_length :
    statusOf (exec .init { sA with len := 0xFFFFFFFF }) = some 1 ∧ phaseOf (exec .init { sA with len := 0xFFFFFFFF }) = some 0x01 := by
  decide

theorem test_v3_4_init_checks_the_speed : statusOf (exec .init { sA with cfgSpeed := 0 }) = some 0x52 ∧
    traceOf (exec .init { sA with cfgSpeed := 0 }) = some [.fault .badSpeed] := by decide

theorem test_v1_3_reserved_words : statusOf (exec (.cmdReserved 3) (sReady 0)) = some 0x22 ∧
    statusOf (exec (.cmdReserved 5) (sReady 0)) = some 0x22 ∧
    statusOf (exec (.cmdReserved 0x80000001) (sReady 0)) = some 0x22 ∧
    statusOf (exec (.cmdReserved 0xFFFFFFFF) (sReady 0)) = some 0x22 := by decide

theorem test_v5_2_command_and_port_faults :
    statusOf (exec (.cmdReserved 0) { s0 with drvReady := false }) = some 0x22 ∧
    statusOf (exec .init { s0 with drvReady := false }) = some 0x32 ∧
    statusOf (exec .xfer { s0 with len := 5 }) = some 0x42 ∧
    statusOf (exec .xfer { sA with cfgSpeed := 0xFFFFFFFF, len := 5 }) = some 0x52 ∧
    statusOf (exec .init { sA with cfgMiso := 8 }) = some 0x42 := by decide

theorem test_v5_2_transfer_faults :
    statusOf (exec .xfer { sA with len := 5 }) = some 0x62 ∧
    statusOf (exec .xfer { sA with len := 2, tx := [(0, 0)] }) = some 0x72 ∧
    statusOf (exec .xfer sA) = some 0x82 ∧ statusOf (exec .xfer (sReady 0)) = some 0x01 ∧
    statusOf (exec .xfer { sReady 0 with cfgMiso := 12 }) = some 0x82 := by decide

theorem test_v4_10_a_new_speed_is_a_new_port : statusOf (exec .xfer { sReady 0 with cfgSpeed := 400000 }) = some 0x82 := by decide

theorem test_r230_xfer_latches : (stateOf (exec .xfer { sReady 1 with rx := [(2, 7)], j := 5 })).map
    (fun t => (t.port, t.nlen, t.half)) = some (portA, 1, 500) ∧
    (stateOf (exec .xfer { sReady 1 with rx := [(2, 7)], j := 5 })).map (fun t => (t.rx, t.j, t.phase)) =
      some ([], 0, 0x07) := by decide

/-! ## INIT: V3.1, V3.6 -/

theorem test_v3_1_directions :
    traceOf (exec .iDirCs sInit) = some [.setDir 8 .output] ∧ traceOf (exec .iDirClk sInit) = some [.setDir 11 .output] ∧
    traceOf (exec .iDirMosi sInit) = some [.setDir 10 .output] ∧ traceOf (exec .iDirMiso sInit) = some [.setDir 9 .input] ∧
    phaseOf (exec .iDirCs sInit) = some 0x02 ∧ phaseOf (exec .iDirClk sInit) = some 0x03 ∧
    phaseOf (exec .iDirMosi sInit) = some 0x04 ∧ phaseOf (exec .iDirMiso sInit) = some 0x05 := by decide

theorem test_v3_1_idle_levels :
    traceOf (exec .iCsHi sInit) = some [.write 8 .high] ∧ phaseOf (exec .iCsHi sInit) = some 0x06 ∧
    traceOf (exec .iClkHi sInit) = some [.write 11 .high] ∧ statusOf (exec .iClkHi sInit) = some 0 ∧
    (stateOf (exec .iClkHi sInit)).map (·.inited) = some [portA] := by decide

theorem test_v3_6_driver_error : statusOf (exec .iCsHi (failing sInit)) = some 0x92 ∧
    (stateOf (exec .iCsHi (failing { sInit with lines := linesA }))).map (fun t => t.level 8) = some .unknown ∧
    traceOf (exec .iCsHi (failing sInit)) = some [.fault .driverError] := by decide

/-! ## XFER: V4.1, V4.8, V5.4 -/

theorem test_v4_8_chip_select : traceOf (exec .xCsLo (sXfer 1)) = some [.write 8 .low] ∧
    phaseOf (exec .xCsLo (sXfer 1)) = some 0x08 ∧ phaseOf (exec .xCsLo (sXfer 0)) = some 0x11 ∧
    traceOf (exec .xCsHi (sXfer 1)) = some [.write 8 .high] ∧ statusOf (exec .xCsHi (sXfer 1)) = some 0 := by decide

theorem test_r232_load : (stateOf (exec .xLoad { sXfer 1 with tx := [(0, 0xB2)], insr := 9, bitn := 8 })).map
    (fun t => (t.outsr, t.insr, t.bitn, t.phase)) = some (0xB2, 0, 0, 0x09) := by decide

theorem test_v4_8_clock : traceOf (exec .xClkLo (sXfer 1)) = some [.write 11 .low] ∧ phaseOf (exec .xClkLo (sXfer 1)) = some 0x0A ∧
    traceOf (exec .xClkHi (sXfer 1)) = some [.write 11 .high] ∧ phaseOf (exec .xClkHi (sXfer 1)) = some 0x0D := by decide

theorem test_v4_1_mosi : traceOf (exec .xMosi { sXfer 1 with outsr := 0xB2 }) = some [.write 10 .high] ∧
    traceOf (exec .xMosi { sXfer 1 with outsr := 0x64 }) = some [.write 10 .low] := by decide

theorem test_v4_8_holds : traceOf (exec .xHold1 (sXfer 1)) = some [.hold 500] ∧ phaseOf (exec .xHold1 (sXfer 1)) = some 0x0C ∧
    traceOf (exec .xHold2 (sXfer 1)) = some [.hold 500] ∧ phaseOf (exec .xHold2 (sXfer 1)) = some 0x0F := by decide

theorem test_v4_1_sample : (stateOf (exec .xSample { sXfer 1 with insr := 0x05 })).map (fun t => (t.insr, t.trace)) =
    some (0x0B, [.read 9 .high]) ∧
    (stateOf (exec .xSample (failing { sXfer 1 with insr := 0x05 }))).map (·.insr) = some 0x05 := by decide

theorem test_v4_1_shift : (stateOf (exec .xShift { sXfer 1 with outsr := 0xB2 })).map (fun t => (t.outsr, t.bitn, t.phase)) =
    some (0x64, 1, 0x09) ∧ phaseOf (exec .xShift { sXfer 1 with bitn := 7 }) = some 0x10 := by decide

theorem test_r240_store : (stateOf (exec .xStore { sXfer 1 with insr := 0xB2 })).map (fun t => (t.rx, t.j, t.phase)) =
    some ([(0, 0xB2)], 1, 0x11) ∧ phaseOf (exec .xStore { sXfer 1 with nlen := 2 }) = some 0x08 := by decide

theorem test_v5_4_driver_error_on_the_clock :
    (stateOf (exec .xClkHi (failing (sXfer 1)))).map (fun t => (t.level 11, t.level 8, t.status)) =
      some (.unknown, .high, 0x92) := by decide

/-! ## The timer: V6.1, V6.3, V6.5 -/

theorem test_v6_1_half_periods : halfPeriod 1 = 500000000 ∧ halfPeriod 3 = 166666666 ∧ halfPeriod 7 = 71428571 ∧
    halfPeriod 8000000 = 62 ∧ halfPeriod 500000000 = 1 ∧ halfPeriod 500000001 = 0 ∧ halfPeriod 2147483647 = 0 := by decide

theorem test_v6_5_ticks : holdTicks s0.params 500 = 51 ∧ holdTicks s0.params 0 = 0 ∧ holdTicks s0.params 1 = 2 := by decide

theorem test_v6_3_too_early : ¬ TimedReading [.write 11 .low, .hold 500, .write 11 .high] (fun k => if k = 2 then 499 else 0) := by
  intro h
  have := (h 1 (by decide)).2 (by decide) (by decide)
  norm_num [holdNs] at this

/-! ## Reset and the platform: V7.1, V7.2, R45 -/

theorem test_v7_1_reset_clears_the_fault :
    statusOf (step { sFault with inbox := [.reset false] }) = some 0 ∧
    (stateOf (step { sFault with inbox := [.reset false] })).map (·.cfgSpeed) = some 0 := by decide

theorem test_v7_2_reset_keeps_the_lines :
    (stateOf (step { sXfer 1 with lines := [(8, ⟨.output, .low⟩)], inbox := [.reset false], schedule := [.host] })).map
      (fun t => (t.level 8, t.status, t.inited)) = some (.low, 0, []) := by decide

theorem test_r352_request_in_flight :
    (stateOf (step { sInit with inbox := [.reset true], schedule := [.host] })).map
      (fun t => (t.dir 8, t.status, t.cfgCs)) = some (.output, 0, 0) ∧
    (stateOf (step { failing (sXfer 1) with inbox := [.reset true], schedule := [.host] })).map
      (fun t => (t.level 8, t.trace)) = some (.unknown, []) := by decide

theorem test_drv_ready_is_an_input : (stateOf (step { s0 with inbox := [.drvReady false] })).map (·.drvReady) = some false := by
  decide

/-! ## The step -/

theorem test_placed_word_runs : answerOf (step (s0.withFetchWord 64 0x0000001C00000000)) = some (.data 0) ∧
    traceOf (step ({ sXfer 1 with phase := 0x00 }.withFetchWord 8 0x0C)) = some [.write 11 .high] := by decide

theorem test_idle_and_unused : step s0 = .next s0 ∧ step (s0.withFetchWord 8 0x13) = .fault (.unusedPhase 0x13) := ⟨rfl, rfl⟩

theorem test_platform_address : answerOf (step { s0 with inbox := [.accessAt 32 false 0x801C 0] }) = some (.data 0) := by decide

/-! ## Witnesses: a state and operands that meet every hypothesis of an obligation; one for each clause where there are several -/

theorem inv_sInit : sInit.Inv where
  phase_idle := by decide
  phase_used := by decide
  fault_stops := by decide
  faulted_eq := rfl
  fcode_zero := fun _ => rfl
  fcode_named := fun h => absurd h (by decide)
  latch := fun _ => rfl
  port_legal := fun _ => by decide
  tx_wf := rfl
  rx_wf := rfl
  lines_wf := rfl
  tx_bound := fun k h => absurd h (by simp [sInit, sA, s0, State.reset])
  rx_bound := fun k h => absurd h (by simp [sInit, sA, s0, State.reset])
  inited_nodup := List.nodup_nil
  inited_legal := fun p h => absurd h (by simp [sInit, sA, s0, State.reset])
  timer_idle := rfl
  xfer_inputs := fun _ h => absurd h (by decide)
  xfer_stored := fun _ h => absurd h (by decide)
  xfer_start := fun _ h => absurd h (by decide)
  xfer_byte := fun _ h => absurd h (by decide)
  xfer_bit := fun _ h => absurd h (by decide)
  xfer_end := fun _ h => absurd h (by decide)

theorem tx_bound_sReady (n k : Nat) (h : (sReady n).tx.valid k = true) : k < (sReady n).bufBytes := by
  obtain ⟨b, hb⟩ := Memory.mem_of_valid h
  have : k = 0 := by
    have : (k, b) ∈ [((0 : Nat), (0xFF : Byte))] := hb
    simpa using congrArg Prod.fst (List.mem_singleton.mp this)
  subst this
  exact (by decide : 0 < s0.bufBytes)

/-- The XFER of 0 bytes and of 1 byte, just accepted. -/
theorem inv_sXfer (n : Nat) (hn : n = 0 ∨ n = 1) : (sXfer n).Inv where
  phase_idle := fun h => absurd h (by simp [sXfer])
  phase_used := fun _ => by simp [sXfer]
  fault_stops := fun h => absurd h (by simp [sXfer, sReady, sA, s0, State.reset])
  faulted_eq := rfl
  fcode_zero := fun _ => rfl
  fcode_named := fun h => absurd h (by simp [sXfer, sReady, sA, s0, State.reset])
  latch := fun _ => rfl
  port_legal := fun _ => (by decide : portA.distinct = true ∧ portA.speedOk = true)
  tx_wf := rfl
  rx_wf := rfl
  lines_wf := (by decide : linesA.wf = true)
  tx_bound := tx_bound_sReady n
  rx_bound := fun k h => absurd h (by simp [sXfer, sReady, sA, s0, State.reset])
  inited_nodup := List.nodup_singleton _
  inited_legal := fun p h => by
    obtain rfl : p = portA := List.mem_singleton.mp h
    decide
  timer_idle := rfl
  xfer_inputs := fun _ _ => by rcases hn with rfl | rfl <;> decide
  xfer_stored := fun _ _ k => by simp [sXfer, sReady, sA, s0, State.reset]
  xfer_start := fun _ _ => rfl
  xfer_byte := fun _ h => absurd h (by simp [sXfer])
  xfer_bit := fun _ h => absurd h (by simp [sXfer])
  xfer_end := fun _ h => absurd h (by simp [sXfer, Phase.xCsHi])

theorem start_sXfer (n : Nat) (hn : n = 0 ∨ n = 1) : (sXfer n).XferStart n where
  inv := inv_sXfer n hn
  busy := rfl
  phase := rfl
  len := by rcases hn with rfl | rfl <;> rfl
  quiet := rfl

theorem witness_DecodeOfEncodeIsIdentity : (Instr.cmdReserved 5).wf = true := by decide
theorem witness_EncodeOfDecodeIsIdentity : decode (.bus 0x8000000000000008) = .instr (.wrCfgCs 8) ∧
    decode (.seq 0x1F) = .instr (.phaseUnused18 7) := by decide
theorem witness_DecodingIsTotalAndRefusesByName :
    (0x0001001C00000000#64).extractLsb' 48 15 ≠ 0 ∧
    ((0x0000001C00000001#64).extractLsb' 48 15 = 0 ∧ (0x0000001C00000001#64).getLsbD 63 = false ∧
      (0x0000001C00000001#64).extractLsb' 0 32 ≠ 0) ∧
    ((0x8000002400000001#64).extractLsb' 48 15 = 0 ∧ (0x8000002400000001#64).getLsbD 63 = true ∧
      selectReg ((0x8000002400000001#64).extractLsb' 32 16) = .unmapped) := by decide
theorem witness_GpioRequestsKeepTheirFormat : GpioRequest.ofBits 0x200000009 false = some (gpioRead 9) := by decide

/-- The host's next access and the sequencer's next micro-operation are both enabled. -/
def sBoth (sch : List Agent) : State := { sInit with inbox := [.access 32 0x0000001C00000000], schedule := sch }

theorem witness_StepRunsTheDecodedInstruction :
    ({ s0 with inbox := [.access 32 0x0000001C00000000] }.busy = false) ∧
    (decode (.bus 0x0000001C00000000) = .instr .rdStatus) ∧
    ((sBoth [.host]).busy = true ∧ (sBoth [.sequencer]).phase = 0x01 ∧ decode (.seq 0x01) = .instr .iDirCs) ∧
    (sInit.busy = true ∧ sInit.inbox = []) ∧ (s0.busy = false ∧ s0.inbox = [] ∧ s0.phase.toNat < 0x12) ∧
    ((sBoth []).schedule = [] ∧ (sBoth []).busy = true) ∧
    decode (.bus 0x0001001C00000000) = .refuse .reservedBitsSet := by decide
theorem witness_PlacedWordRunsNext : decodeTableWord 64 0x8000001800000001 = some .init ∧ (0x1F : BitVec 5) ≠ 0 := by decide
theorem witness_OtherWidthGetsBusError :
    ({ s0 with inbox := [.access 8 0x0000001C00000000] }.busy = false) ∧ 8 ≠ 32 ∧
    ({ sBoth [.host] with inbox := [.access 64 0x0000001C00000000] }.busy = true) ∧
    decode (.bus 0x0000001C00000000) = .instr .rdStatus := by decide
theorem witness_PlatformInputsReachTheBlock : s0.busy = false ∧ (0x3FFF#16).toNat < 0x4000 ∧
    (0x7FFF < s0.params.blockBase ∧ s0.params.blockBase + 0x4000 ≤ 0xC000) ∧
    ((sBoth [.host]).busy = true ∧ (sBoth [.host]).schedule = .host :: []) := by decide
theorem witness_PollRepeatsWhileBusy : ({ s0 with inbox := [.poll] }.busy = false) ∧
    ({ sInit with inbox := [.poll], schedule := [.host] }.busy = true) := by decide
theorem witness_RegisterReadsReturnTheRegister : s0.fault = false ∧ sFault.fault = true ∧ sInit.Inv ∧ sInit.busy = true :=
  ⟨rfl, rfl, inv_sInit, rfl⟩
theorem witness_RegisterWritesStore :
    (sA.fault = false ∧ sA.busy = false) ∧ (sInit.fault = false ∧ sInit.busy = true) ∧ sFault.fault = true := by decide
theorem witness_RefusedAccessesGetBusError : s0.bufBytes ≤ (4#10).toNat := by decide
theorem witness_HalfNsReadReturnsTheHalfPeriod : (sReady 1).fault = false ∧ 0 < (sReady 1).cfgSpeed.toInt ∧
    (sReady 1).busy = false ∧ ((stateOf (exec .xfer (sReady 1))).map (·.busy)) = some true ∧
    (s0.fault = false ∧ s0.cfgSpeed.toInt ≤ 0) ∧ sFault.fault = true := by decide
theorem witness_TxbufReadReturnsValidBytes : (3#10).toNat < s0.bufBytes ∧ (sReady 1).tx.read 0 = some 0xFF ∧
    (sReady 1).tx.valid 3 = false ∧ (sReady 1).fault = false ∧ sFault.fault = true := by decide
theorem witness_TxbufWriteStoresTheLowByte : (3#10).toNat < s0.bufBytes ∧ (s0.fault = false ∧ s0.busy = false ∧ s0.tx.wf = true) ∧
    (sInit.fault = false ∧ sInit.busy = true) ∧ sFault.fault = true := by decide
theorem witness_RxbufReadReturnsValidBytes : (3#10).toNat < s0.bufBytes ∧
    ({ s0 with rx := [(3, 7)] }.rx.read 3 = some 7 ∧ s0.fault = false ∧ s0.busy = false) ∧ s0.rx.valid 3 = false ∧
    sInit.busy = true ∧ sFault.fault = true := by decide
theorem witness_ReadsHaveNoSideEffect : exec .rdCfgCs sA = .next { sA with answer := some (.data 8) } := rfl
theorem witness_HostAccessFrame : (Instr.wrTxbuf 0 0xB2).wf = true ∧ isHostAccess (.wrTxbuf 0 0xB2) ∧
    exec (.wrTxbuf 0 0xB2) sA = .next { sA with tx := [(0, 0xB2)], answer := some .done } := ⟨rfl, ⟨_, rfl⟩, rfl⟩
theorem witness_ReservedCommandWordFaults : ((0#32).toNat % 4 = 0 ∧ (3#32).toNat % 4 = 3 ∧ (5#32).toNat / 4 ≠ 0) ∧
    sA.busy = false ∧ sA.fault = false := by decide
theorem witness_CommandReportsTheFirstFault : sFault.fault = true ∧ sInit.busy = true ∧
    ({ s0 with drvReady := false }.drvReady = false) ∧ s0.cfgCs = s0.cfgClk ∧
    ({ sA with cfgSpeed := 0 }.cfgSpeed.toInt ≤ 0) ∧
    ({ sA with len := 5 }.bufBytes < (5#32).toNat) ∧ (0 < { sA with len := 1 }.len.toNat ∧ sA.tx.valid 0 = false) ∧
    (sA.len.toNat ≤ sA.bufBytes ∧ sA.cfgPort ∉ sA.inited) ∧
    (sA.cfgCs ≠ sA.cfgClk ∧ sA.cfgCs ≠ sA.cfgMosi ∧ sA.cfgCs ≠ sA.cfgMiso ∧ sA.cfgClk ≠ sA.cfgMosi ∧ sA.cfgClk ≠ sA.cfgMiso ∧
      sA.cfgMosi ≠ sA.cfgMiso ∧ 0 < sA.cfgSpeed.toInt ∧ sA.drvReady = true) := by decide
theorem witness_InitIsAccepted : sA.fault = false ∧ sA.busy = false ∧ sA.drvReady = true ∧ sA.cfgPort.distinct = true ∧
    0 < sA.cfgSpeed.toInt ∧ (stateOf (exec .init sA)).isSome = true := by decide
theorem witness_XferIsAccepted : (sReady 1).fault = false ∧ (sReady 1).busy = false ∧ (sReady 1).drvReady = true ∧
    (sReady 1).cfgPort.distinct = true ∧ 0 < (sReady 1).cfgSpeed.toInt ∧ (sReady 1).len.toNat ≤ (sReady 1).bufBytes ∧
    (∀ k < (sReady 1).len.toNat, (sReady 1).tx.valid k = true) ∧ (sReady 1).initialized = true := by decide
theorem witness_NoXferWithoutInit : sA.cfgPort ∉ sA.inited ∧ sA.busy = false ∧ (stateOf (exec .xfer sA)).isSome = true := by decide
theorem witness_MicroOperationFrame_pending_error : (failing (sXfer 1)).nextAnswer.err = true ∧
    (stateOf (exec .xShift (failing (sXfer 1)))).isSome = true := ⟨rfl, rfl⟩
theorem witness_FaultEntry : sInit.lines.wf = true ∧ sInit.fault = false ∧
    ((stateOf (exec (.wrLen 1) sInit)).map (·.fault)) = some true ∧
    ((stateOf (exec .iDirCs (failing sInit))).map (·.fault)) = some true := by decide
theorem witness_FaultedBlockAnswersStatusOnly : sFault.fault = true ∧ isHostAccess .rdLen ∧ isHostAccess .rdStatus :=
  ⟨rfl, ⟨_, rfl⟩, ⟨_, rfl⟩⟩
theorem witness_OnlyResetClearsAFault : sFault.fault = true ∧ step sFault = .next sFault := ⟨rfl, rfl⟩
theorem witness_ConcurrentWriteStopsTheCommand : sInit.busy = true ∧ sInit.fault = false ∧ (3#10).toNat < sInit.bufBytes := by decide
theorem witness_FailedRequestRaisesDriverError : (failing sInit).lines.wf = true ∧ (failing sInit).fault = false ∧
    (failing sInit).nextAnswer.err = true := by decide
theorem witness_IdleStaysAndUnusedPhaseFaults : 0x12 ≤ ({ s0 with phase := 0x12 }.phase).toNat ∧ s0.inbox = [] := by decide
theorem witness_InitMicroOperations : sInit.lines.wf = true ∧ sInit.nextAnswer.err = false := by decide
theorem witness_XferPinWrites : (sXfer 1).lines.wf = true ∧ (sXfer 1).nextAnswer.err = false := by decide
theorem witness_SampleShiftsTheLevelIn : (sXfer 1).nextAnswer.err = false := by decide
theorem witness_LoadTakesTheByte : (sXfer 1).tx.read (sXfer 1).j.toNat = some 0xFF := by decide
theorem witness_StorePutsTheByte : (sXfer 1).rx.wf = true := by decide
theorem witness_MicroOperationFrame : isSequencer .xShift ∧ (stateOf (exec .xShift (sXfer 1))).isSome = true := ⟨⟨_, rfl⟩, rfl⟩
theorem witness_ResetGivesTheSpecValues : ({ sFault with inbox := [.reset false] }.busy = false) ∧
    ({ sA with inbox := [.reset true] }.busy = false) := by decide
theorem witness_ResetStopsARunningCommand :
    ({ sInit with inbox := [.reset true], schedule := [.host] }.lines.wf = true) ∧ sInit.busy = true ∧
    sInit.request = some (gpioSetDir 8 .output) ∧ (9 : Word) ≠ 8 ∧ ({ sXfer 1 with phase := 0x08 }.request = none) ∧
    ({ sXfer 1 with phase := 0x0D }.request = some (gpioRead 9)) ∧ (sXfer 1).request = some (gpioWrite 8 .low) ∧
    (sInit.nextAnswer.err = false ∧ (failing sInit).nextAnswer.err = true) := by decide
theorem witness_StepKeepsTheInvariant : sInit.Inv ∧ (stateOf (step sInit)).isSome = true := ⟨inv_sInit, rfl⟩
theorem witness_TraceOnlyGrows : (stateOf (step sInit)).isSome = true := by decide
theorem witness_OnlyAnAcceptedCommandSetsBusy : sA.busy = false ∧
    ((stateOf (step { sA with inbox := [.access 32 0x8000001800000001] })).map (·.busy)) = some true := by decide
theorem witness_DirectionsChangeOnlyInInit : sInit.lines.wf = true ∧ sInit.dir 8 = .unconf ∧
    ((stateOf (step sInit)).map (fun t => t.dir 8)) = some .output := by decide
theorem witness_HalfPeriodRange : 0 < (1#32).toInt ∧ 0 < (0x7FFFFFFF#32).toInt := by decide
theorem witness_InitRunsToIdle : sInit.Inv ∧ sInit.busy = true ∧ sInit.phase = 0x01 ∧ sInit.HostQuiet ∧ sInit.NoDriverError 6 :=
  ⟨inv_sInit, rfl, rfl, rfl, by unfold State.NoDriverError; decide⟩
theorem witness_RepeatedInitIsIdempotent : sInit.Inv ∧ sInit.HostQuiet ∧ sInit.drvReady = true ∧ sInit.NoDriverError 12 :=
  ⟨inv_sInit, rfl, rfl, by unfold State.NoDriverError; decide⟩

theorem acked_sXfer (n : Nat) : (sXfer n).NoDriverError 34 := by
  have : ∀ i < 34, (((List.replicate 34 (GpioAnswer.mk false .high))[i]?).getD (freeAnswer (0 + i))).err = false := by decide
  exact this

theorem witness_XferRunAppendsItsTrace : (sXfer 1).XferStart 1 ∧ (sXfer 1).NoDriverError (2 + 32 * 1) :=
  ⟨start_sXfer 1 (.inr rfl), acked_sXfer 1⟩
theorem witness_XferRunStoresTheSampledBytes : (sXfer 1).XferStart 1 ∧ (sXfer 1).NoDriverError (2 + 32 * 1) :=
  ⟨start_sXfer 1 (.inr rfl), acked_sXfer 1⟩
theorem witness_XferRunLeavesTheLinesIdle : ((sXfer 1).XferStart 1 ∧ (sXfer 1).NoDriverError (2 + 32 * 1)) ∧
    (sXfer 1).tx.read 0 = some 0xFF ∧ (sXfer 0).XferStart 0 :=
  ⟨⟨start_sXfer 1 (.inr rfl), acked_sXfer 1⟩, rfl, start_sXfer 0 (.inl rfl)⟩
theorem witness_EmptyTransferPulsesChipSelect : (sXfer 0).XferStart 0 ∧ (sXfer 0).NoDriverError 2 :=
  ⟨start_sXfer 0 (.inl rfl), fun i hi => acked_sXfer 0 i (by omega)⟩

/-- A property of every state that a run of `n` steps starts a step from. -/
def alongRun (p : State → Bool) : Nat → State → Bool
  | 0, _ => true
  | n + 1, s =>
    p s && (match step s with
      | .next t => alongRun p n t
      | .fault _ => true
      | .refused _ => true)

theorem alongRun_spec (p : State → Bool) (n : Nat) (s : State) (h : alongRun p n s = true) :
    ∀ k < n, ∀ t, runSteps k s = .next t → p t = true := by
  induction n generalizing s with
  | zero => intro k hk; omega
  | succ n ih =>
    simp only [alongRun, Bool.and_eq_true] at h
    intro k hk t ht
    cases k with
    | zero => cases ht; exact h.1
    | succ k =>
      simp only [runSteps] at ht
      cases hs : step s with
      | next u =>
        rw [hs] at h ht
        exact ih u h.2 k (by omega) t ht
      | fault r => rw [hs] at ht; cases ht
      | refused r => rw [hs] at ht; cases ht

/-- No part of the invariant speaks of the answers to come. -/
theorem inv_answers {s : State} (h : s.Inv) (as : List GpioAnswer) : { s with answers := as }.Inv := by
  cases h
  constructor <;> assumption

/-- The XFER of 1 byte with every answer low and acknowledged. -/
def sXferLow : State := { sXfer 1 with answers := List.replicate 34 ⟨false, .low⟩ }

theorem start_sXferLow : sXferLow.XferStart 1 := ⟨inv_answers (inv_sXfer 1 (.inr rfl)) _, rfl, rfl, rfl, rfl⟩

theorem acked_sXferLow : sXferLow.NoDriverError 34 := by
  have : ∀ i < 34, (((List.replicate 34 (GpioAnswer.mk false .low))[i]?).getD (freeAnswer (0 + i))).err = false := by decide
  exact this

theorem low_along_sXferLow : alongRun (fun t => decide (t.phase = Phase.xSample → t.nextAnswer.lvl = .low)) 60 sXferLow = true := by
  decide +kernel
theorem high_along_sXfer : alongRun (fun t => decide (t.phase = Phase.xSample → t.nextAnswer.lvl = .high)) 60 (sXfer 1) = true := by
  decide +kernel
theorem loopback_along_sXfer :
    alongRun (fun t => decide (t.phase = Phase.xSample → t.nextAnswer.lvl.line = t.level t.port.mosi)) 60 (sXfer 1) = true := by
  decide +kernel

theorem witness_LoopbackReturnsTheSentBytes : (sXfer 1).XferStart 1 ∧ (sXfer 1).NoDriverError (2 + 32 * 1) ∧
    (sXfer 1).Loopback (2 + 58 * 1) :=
  ⟨start_sXfer 1 (.inr rfl), acked_sXfer 1, fun k hk t ht hp =>
    of_decide_eq_true (alongRun_spec _ 60 _ loopback_along_sXfer k hk t ht) hp⟩
theorem witness_HeldMisoReturnsConstantBytes_low : sXferLow.XferStart 1 ∧ sXferLow.NoDriverError (2 + 32 * 1) ∧
    sXferLow.MisoHeld .low (2 + 58 * 1) :=
  ⟨start_sXferLow, acked_sXferLow, fun k hk t ht hp =>
    of_decide_eq_true (alongRun_spec _ 60 _ low_along_sXferLow k hk t ht) hp⟩
theorem witness_HeldMisoReturnsConstantBytes : (sXfer 1).XferStart 1 ∧ (sXfer 1).NoDriverError (2 + 32 * 1) ∧
    (sXfer 1).MisoHeld .high (2 + 58 * 1) :=
  ⟨start_sXfer 1 (.inr rfl), acked_sXfer 1, fun k hk t ht hp =>
    of_decide_eq_true (alongRun_spec _ 60 _ high_along_sXfer k hk t ht) hp⟩

/-- A trace of one byte at 1 MHz, and 500 ns between any two events. -/
def trace1 : List Event := transferEvents portA 500 1 (fun _ => 0xB2) (fun _ _ => .high)

theorem holds_of_trace1 : ∀ k < 50, holdNs trace1 k ≤ 500 := by decide

theorem witness_WireTimingBounds : TimedReading trace1 (fun k => 500 * (k : ℚ)) ∧ 7 < 8 * 1 := by
  refine ⟨fun k hk => ⟨fun _ => ?_, fun h0 _ => ?_⟩, by omega⟩
  · push_cast; linarith
  · have h := holds_of_trace1 k hk
    have hc : ((holdNs trace1 k : Nat) : ℚ) ≤ 500 := by exact_mod_cast h
    have : ((k - 1 : Nat) : ℚ) = (k : ℚ) - 1 := by
      rw [Nat.cast_sub (by omega : 1 ≤ k)]; norm_num
    simp only [this]; push_cast; linarith

theorem witness_TransferLastsSixteenHoldsPerByte : (sXfer 1).XferStart 1 ∧ (sXfer 1).NoDriverError (2 + 32 * 1) :=
  ⟨start_sXfer 1 (.inr rfl), acked_sXfer 1⟩

end Sys2Proof.Tests
end

section
/-! What a step runs, by the agent that moves (00_scope.md R16): the rules of the fetch, and O6. -/

namespace Sys2Proof.Machine

/-! ## A step, from what was fetched -/

theorem step_of_fetch_run {s t : State} {i : Instr} (h : s.fetch = (.run i, t)) : step s = exec i t := by
  simp [step, h]

theorem step_of_fetch_event {s t : State} (h : s.fetch = (.event, t)) : step s = .next t := by
  simp [step, h]

theorem step_of_fetch_invalid {s t : State} {e : DecodeError} (h : s.fetch = (.invalid e, t)) :
    step s = .refused (.invalidDescriptor e) := by
  simp [step, h]

/-! ## The choice of the agent -/

theorem State.nextAgent_of_schedule {s : State} {a : Agent} {sch : List Agent} (h : s.schedule = a :: sch) :
    s.nextAgent = a := by
  simp [State.nextAgent, h]

theorem State.nextAgent_host_or_sequencer (s : State) : s.nextAgent = .host ∨ s.nextAgent = .sequencer := by
  cases s.nextAgent
  · exact .inl rfl
  · exact .inr rfl

/-- A choice arises when an input waits and BUSY = 1. -/
theorem State.takeTurn_of_choice {s : State} {x : Input} {rest : List Input} (hin : s.inbox = x :: rest)
    (hb : s.busy = true) : s.takeTurn = { s with schedule := s.schedule.tail, turns := s.turns + 1 } := by
  simp [State.takeTurn, hin, hb]

/-! ## The fetch of the agent chosen -/

theorem State.fetch_hostTurn {s : State} {x : Input} {rest : List Input} (hin : s.inbox = x :: rest)
    (hb : s.busy = true) (ha : s.nextAgent = .host) :
    s.fetch = (fetchInput s.params x, s.takeTurn.popInput.platform x) := by
  simp [State.fetch, State.mover, hin, hb, ha]

theorem State.fetch_sequencerTurn {s : State} {x : Input} {rest : List Input} (hin : s.inbox = x :: rest)
    (hb : s.busy = true) (ha : s.nextAgent = .sequencer) : s.fetch = (.run s.microOp, s.takeTurn) := by
  simp [State.fetch, State.mover, hin, hb, ha]

/-! ## What stands at the host and at PHASE -/

theorem fetchInput_access_of_decode {p : Params} {d : Descriptor} {i : Instr} (h : decode (.bus d) = .instr i) :
    fetchInput p (.access 32 d) = .run i := by
  rw [decode] at h
  simp [fetchInput, fetchAccess, h]

theorem fetchInput_access_of_refuse {p : Params} {bits : Nat} {d : Descriptor} {e : DecodeError}
    (h : decode (.bus d) = .refuse e) : fetchInput p (.access bits d) = .invalid e := by
  rw [decode] at h
  simp [fetchInput, fetchAccess, h]

theorem State.popInput_of_access {s : State} {bits : Nat} {d : Descriptor} {rest : List Input}
    (h : s.inbox = .access bits d :: rest) : s.popInput = { s with inbox := rest } := by
  simp [State.popInput, h]

theorem State.microOp_of_decode {s : State} {i : Instr} (hb : s.busy = true) (h : decode (.seq s.phase) = .instr i) :
    s.microOp = i := by
  simpa [State.microOp, decode, hb] using h

theorem State.microOp_of_idle {s : State} (hb : s.busy = false) (hp : s.phase.toNat < 0x12) : s.microOp = .idle := by
  have : Phase.unused s.phase = false := by simpa [Phase.unused] using hp
  simp [State.microOp, hb, this]

/-! ## The step of the agent that moves -/

theorem step_access_of_idle {s : State} {d : Descriptor} {i : Instr} {rest : List Input} (hb : s.busy = false)
    (hin : s.inbox = .access 32 d :: rest) (hd : decode (.bus d) = .instr i) :
    step s = exec i { s with inbox := rest } := by
  apply step_of_fetch_run
  rw [State.fetch_host hin hb, fetchInput_access_of_decode hd, State.popInput_of_access hin, State.platform]

theorem step_access_of_hostTurn {s : State} {d : Descriptor} {i : Instr} {rest : List Input} (hb : s.busy = true)
    (hin : s.inbox = .access 32 d :: rest) (ha : s.nextAgent = .host) (hd : decode (.bus d) = .instr i) :
    step s = exec i { s with inbox := rest, schedule := s.schedule.tail, turns := s.turns + 1 } := by
  have hin' : s.takeTurn.inbox = .access 32 d :: rest := by rw [State.takeTurn_of_choice hin hb, hin]
  apply step_of_fetch_run
  rw [State.fetch_hostTurn hin hb ha, fetchInput_access_of_decode hd, State.popInput_of_access hin',
    State.takeTurn_of_choice hin hb, State.platform]

theorem step_microOp_of_sequencerTurn {s : State} {i : Instr} {x : Input} {rest : List Input} (hb : s.busy = true)
    (hin : s.inbox = x :: rest) (ha : s.nextAgent = .sequencer) (hd : decode (.seq s.phase) = .instr i) :
    step s = exec i { s with schedule := s.schedule.tail, turns := s.turns + 1 } := by
  apply step_of_fetch_run
  rw [State.fetch_sequencerTurn hin hb ha, State.microOp_of_decode hb hd, State.takeTurn_of_choice hin hb]

theorem step_microOp_of_quiet {s : State} (hin : s.inbox = []) : step s = exec s.microOp s :=
  step_of_fetch_run (State.fetch_quiet hin)

/-- Settles O6: a clause for each agent that can move; with no schedule left, the free choice falls on one of the two. -/
theorem stepRunsTheDecodedInstruction : Obligations.StepRunsTheDecodedInstruction := by
  unfold Obligations.StepRunsTheDecodedInstruction
  refine ⟨?host, ?hostTurn, ?quiet, ?sequencerTurn, ?free, ?idle, ?refused⟩
  case host => exact fun s d i rest hb hin hd => step_access_of_idle hb hin hd
  case hostTurn =>
    intro s d i rest sch hb hin hs hd
    rw [step_access_of_hostTurn hb hin (State.nextAgent_of_schedule hs) hd, hs, List.tail_cons]
  case quiet =>
    intro s i hb hin hd
    rw [step_microOp_of_quiet hin, State.microOp_of_decode hb hd]
  case sequencerTurn =>
    intro s i x rest sch hb hin hs hd
    rw [step_microOp_of_sequencerTurn hb hin (State.nextAgent_of_schedule hs) hd, hs, List.tail_cons]
  case free =>
    intro s d i j rest hb hin hs hd hj
    have htail : s.schedule.tail = s.schedule := by rw [hs, List.tail_nil]
    obtain ha | ha := s.nextAgent_host_or_sequencer
    · exact .inl (by rw [step_access_of_hostTurn hb hin ha hd, htail])
    · exact .inr (by rw [step_microOp_of_sequencerTurn hb hin ha hj, htail])
  case idle =>
    intro s hb hin hp
    rw [step_microOp_of_quiet hin, State.microOp_of_idle hb hp]
  case refused =>
    intro s d e rest hb hin hd
    apply step_of_fetch_invalid
    rw [State.fetch_host hin hb, fetchInput_access_of_refuse hd]

end Sys2Proof.Machine
end

section
/-! What an instruction can do, said once: the requests of the micro-operations (30_encoding.md R120), the outcome of a micro-operation, of a
host access and of a step. The rules about all steps are case analyses on these. -/

namespace Sys2Proof.Machine

/-! ## Micro-operations with a request -/

/-- The request that a micro-operation issues, if it issues one (R120). -/
def State.requestOf (s : State) : Instr → Option GpioRequest
  | .iDirCs => some (gpioSetDir s.port.cs .output)
  | .iDirClk => some (gpioSetDir s.port.clk .output)
  | .iDirMosi => some (gpioSetDir s.port.mosi .output)
  | .iDirMiso => some (gpioSetDir s.port.miso .input)
  | .iCsHi => some (gpioWrite s.port.cs .high)
  | .iClkHi => some (gpioWrite s.port.clk .high)
  | .xCsLo => some (gpioWrite s.port.cs .low)
  | .xClkLo => some (gpioWrite s.port.clk .low)
  | .xMosi => some (gpioWrite s.port.mosi (lvl (outBit s.outsr)))
  | .xClkHi => some (gpioWrite s.port.clk .high)
  | .xSample => some (gpioRead s.port.miso)
  | .xCsHi => some (gpioWrite s.port.cs .high)
  | _ => none

/-- How a micro-operation goes on when its request is acknowledged. -/
def State.afterAck (resp : GpioResponse) (t : State) : Instr → State
  | .iDirCs => t.goto Phase.iDirClk
  | .iDirClk => t.goto Phase.iDirMosi
  | .iDirMosi => t.goto Phase.iDirMiso
  | .iDirMiso => t.goto Phase.iCsHi
  | .iCsHi => t.goto Phase.iClkHi
  | .iClkHi => (t.addInited.clearBusy).goto Phase.idle
  | .xCsLo => t.goto (if t.nlen = 0 then Phase.xCsHi else Phase.xLoad)
  | .xClkLo => t.goto Phase.xMosi
  | .xMosi => t.goto Phase.xHold1
  | .xClkHi => t.goto Phase.xSample
  | .xSample => State.goto Phase.xHold2 { t with insr := shiftIn t.insr (Level.ofVal resp.lvl) }
  | .xCsHi => t.clearBusy.goto Phase.idle
  | _ => t

/-- Such a micro-operation is its request, and `afterAck` when that is acknowledged. -/
theorem exec_of_requestOf {s : State} {i : Instr} {r : GpioRequest} (h : s.requestOf i = some r) :
    exec i s = .next (s.gpio r fun resp t => t.afterAck resp i) := by
  cases i <;> cases h <;> rfl

/-- Beside PHASE, the answer to a request changes BUSY at the end of a command, INITED at the end of INIT, INSR at a sample. -/
theorem State.afterAck_eq (resp : GpioResponse) (t : State) (i : Instr) :
    ∃ p b l x, t.afterAck resp i = { t with phase := p, busy := b, inited := l, insr := x } ∧
      (b = t.busy ∨ b = false ∧ p = Phase.idle) ∧ (i = .iClkHi ∨ l = t.inited) ∧ (i = .xSample ∨ x = t.insr) := by
  cases i
  case iClkHi => exact ⟨_, _, _, _, rfl, .inr ⟨rfl, rfl⟩, .inl rfl, .inr rfl⟩
  case xCsHi => exact ⟨_, _, _, _, rfl, .inr ⟨rfl, rfl⟩, .inr rfl, .inr rfl⟩
  case xSample => exact ⟨_, _, _, _, rfl, .inl rfl, .inr rfl, .inl rfl⟩
  all_goals exact ⟨_, _, _, _, rfl, .inl rfl, .inr rfl, .inr rfl⟩

/-! ## Everything a micro-operation can do -/

/-- `s.MicroStep i t`: the row `i` of the `seq` format takes `s` to `t`. -/
inductive State.MicroStep (s : State) : Instr → State → Prop
  | idle : s.MicroStep .idle s
  | failed {i : Instr} {r : GpioRequest} (hr : s.requestOf i = some r) (he : s.nextAnswer.err = true) :
      s.MicroStep i (s.drive r).driverError
  | acked {i : Instr} {r : GpioRequest} (hr : s.requestOf i = some r) (he : s.nextAnswer.err = false) :
      s.MicroStep i (State.afterAck (respond r s.nextAnswer) (s.drive r) i)
  | load : s.MicroStep .xLoad (State.goto Phase.xClkLo { s with outsr := s.txByte, insr := 0, bitn := 0 })
  | hold1 : s.MicroStep .xHold1 (s.holdHalf Phase.xClkHi)
  | hold2 : s.MicroStep .xHold2 (s.holdHalf Phase.xShift)
  | shift : s.MicroStep .xShift (State.goto (if s.bitn + 1 = 8 then Phase.xStore else Phase.xClkLo)
      { s with outsr := shiftOut s.outsr, bitn := s.bitn + 1 })
  | store : s.MicroStep .xStore (State.goto (if (s.j + 1).toNat = s.nlen.toNat then Phase.xCsHi else Phase.xLoad)
      { s with rx := s.rx.store s.j.toNat s.insr, j := s.j + 1 })

/-- A micro-operation with a request fails or is acknowledged. -/
theorem State.microStep_of_requestOf {s t : State} {i : Instr} {r : GpioRequest} (hr : s.requestOf i = some r)
    (h : exec i s = .next t) : s.MicroStep i t := by
  rw [exec_of_requestOf hr] at h
  cases h
  cases he : s.nextAnswer.err
  · rw [State.gpio_ack _ _ he]
    exact .acked hr he
  · rw [State.gpio_err _ _ he]
    exact .failed hr he

/-- A row of the `seq` format is a micro-operation with a request, one of the six without, or an unused code, which never steps (R121). -/
theorem State.microStep_of_exec {s t : State} {i : Instr} (hi : isSequencer i) (h : exec i s = .next t) :
    s.MicroStep i t := by
  obtain ⟨c, hc⟩ := hi
  cases hr : s.requestOf i with
  | some r => exact State.microStep_of_requestOf hr h
  | none =>
    cases i
    case idle => cases h; exact .idle
    case xLoad => cases h; exact .load
    case xHold1 => cases h; exact .hold1
    case xHold2 => cases h; exact .hold2
    case xShift => cases h; exact .shift
    case xStore => cases h; exact .store
    case phaseUnused12 | phaseUnused14 | phaseUnused18 => cases h
    case iDirCs | iDirClk | iDirMosi | iDirMiso | iCsHi | iClkHi | xCsLo | xClkLo | xMosi | xClkHi | xSample | xCsHi =>
      cases hr
    all_goals cases hc

/-! ## Everything a host access can do -/

/-- `s.HostStep t`: a host access takes `s` to `t`. It is answered and changes nothing else; or, with FAULT = 0, it raises a fault; or,
with BUSY = 0 too, it writes a register or a buffer entry, or its command is accepted (40_host_bus.md R150, R166). -/
inductive State.HostStep (s : State) : State → Prop
  | answered (a : BusAnswer) : s.HostStep (s.reply a)
  | raised (c : FaultCode) (hf : s.fault = false) : s.HostStep ((s.raiseFault c).reply .done)
  | config (cs clk mosi miso speed : Word) (hf : s.fault = false) (hb : s.busy = false) :
      s.HostStep (State.reply .done
        { s with cfgCs := cs, cfgClk := clk, cfgMosi := mosi, cfgMiso := miso, cfgSpeed := speed })
  | length (v : Word) (hf : s.fault = false) (hb : s.busy = false) : s.HostStep (State.reply .done { s with len := v })
  | txbuf (k : Nat) (b : Byte) (hk : k < s.bufBytes) (hf : s.fault = false) (hb : s.busy = false) :
      s.HostStep (State.reply .done { s with tx := s.tx.store k b })
  | init (hp : s.portFault = none) (hf : s.fault = false) (hb : s.busy = false) : s.HostStep (s.acceptInit.reply .done)
  | xfer (hp : s.portFault = none) (hx : s.transferFault = none) (hf : s.fault = false) (hb : s.busy = false) :
      s.HostStep (s.acceptXfer.reply .done)

theorem State.hostStep_hostRead (s : State) (ok : Bool) (v : Word) : s.HostStep (s.hostRead ok v) := by
  obtain ⟨e, -⟩ | e := s.hostRead_cases ok v <;> rw [e]
  · exact .answered _
  · exact .answered _

theorem State.hostStep_hostWrite {s : State} {f : State → State}
    (h : s.fault = false → s.busy = false → s.HostStep ((f s).reply .done)) : s.HostStep (s.hostWrite f) := by
  obtain ⟨-, e⟩ | ⟨hf, -, e⟩ | ⟨hf, hb, e⟩ := s.hostWrite_cases f <;> rw [e]
  · exact .answered _
  · exact .raised _ hf
  · exact h hf hb

theorem State.hostStep_writeCmd (s : State) (v : Word) : s.HostStep (s.writeCmd v) := by
  apply State.hostStep_hostWrite
  intro hf hb
  obtain ⟨c, -, e⟩ | ⟨-, hp, e⟩ | ⟨-, hp, hx, e⟩ := s.command_cases v <;> rw [e]
  · exact .raised c hf
  · exact .init hp hf hb
  · exact .xfer hp hx hf hb

theorem State.hostStep_execWrTxbuf {s t : State} {k : BitVec 10} {v : Word} (h : exec (.wrTxbuf k v) s = .next t) :
    s.HostStep t := by
  change Host.Outcome.next _ = _ at h
  cases h
  split_ifs with hk
  · exact State.hostStep_hostWrite fun hf hb => .txbuf _ _ hk hf hb
  · exact .answered _

/-- Every row of the `bus` format is a read, a write, a command, or a bus error. -/
theorem State.hostStep_of_exec {s t : State} {i : Instr} (hi : isHostAccess i) (h : exec i s = .next t) : s.HostStep t := by
  obtain ⟨d, hd⟩ := hi
  cases i
  case rdCfgCs | rdCfgClk | rdCfgMosi | rdCfgMiso | rdCfgSpeed | rdLen | rdHalfNs | rdTxbuf | rdRxbuf =>
    cases h; exact s.hostStep_hostRead _ _
  case wrCfgCs | wrCfgClk | wrCfgMosi | wrCfgMiso | wrCfgSpeed =>
    cases h; exact State.hostStep_hostWrite fun hf hb => .config _ _ _ _ _ hf hb
  case wrLen => cases h; exact State.hostStep_hostWrite fun hf hb => .length _ hf hb
  case wrTxbuf => exact State.hostStep_execWrTxbuf h
  case init | xfer | cmdReserved => cases h; exact s.hostStep_writeCmd _
  case rdCmd | rdStatus | wrStatus | wrHalfNs | wrRxbuf | accessUnmapped => cases h; exact .answered _
  all_goals cases hd

/-! ## Everything a step can do -/

theorem isHostAccess_readCtl (r : CtlReg) : isHostAccess (readCtl r) := by
  cases r <;> exact ⟨_, rfl⟩

theorem isHostAccess_writeCmdInstr (v : Word) : isHostAccess (writeCmdInstr v) := by
  unfold writeCmdInstr
  split_ifs <;> exact ⟨_, rfl⟩

theorem isHostAccess_writeCtl (v : Word) (r : CtlReg) : isHostAccess (writeCtl v r) := by
  cases r
  case cmd => exact isHostAccess_writeCmdInstr v
  all_goals exact ⟨_, rfl⟩

/-- Every access that a descriptor's fields name is a row of the `bus` format (R124). -/
theorem isHostAccess_accessInstr (w : Bool) (off : BitVec 16) (v : Word) : isHostAccess (accessInstr w off v) := by
  unfold accessInstr
  cases selectReg off with
  | ctl r =>
    cases w
    · exact isHostAccess_readCtl r
    · exact isHostAccess_writeCtl v r
  | txbuf k => cases w <;> exact ⟨_, rfl⟩
  | rxbuf k => cases w <;> exact ⟨_, rfl⟩
  | unmapped => exact ⟨_, rfl⟩

theorem isHostAccess_of_decodeBus {d : Descriptor} {i : Instr} (h : decodeBus d = .instr i) : isHostAccess i := by
  unfold decodeBus at h
  split_ifs at h
  cases h
  exact isHostAccess_accessInstr _ _ _

theorem isHostAccess_of_fetchAccess {bits : Nat} {d : Descriptor} {i : Instr} (h : fetchAccess bits d = .run i) :
    isHostAccess i := by
  unfold fetchAccess at h
  cases hd : decodeBus d with
  | refuse e => rw [hd] at h; cases h
  | instr a =>
    rw [hd] at h
    cases h
    split_ifs
    · exact isHostAccess_of_decodeBus hd
    · exact ⟨_, rfl⟩

/-- The instruction that an input gives, if any, is a host access, and such an input has no effect of its own. -/
theorem fetchInput_run {p : Params} {x : Input} {i : Instr} (h : fetchInput p x = .run i) :
    isHostAccess i ∧ ∀ s : State, s.platform x = s := by
  cases x with
  | access bits d => exact ⟨isHostAccess_of_fetchAccess h, fun _ => rfl⟩
  | accessAt bits w addr data =>
    refine ⟨?_, fun _ => rfl⟩
    change fetchAccessAt p bits w addr data = _ at h
    unfold fetchAccessAt at h
    cases ho : p.offsetOf addr with
    | none => rw [ho] at h; cases h
    | some off => rw [ho] at h; exact isHostAccess_of_fetchAccess h
  | poll => cases h; exact ⟨⟨_, rfl⟩, fun _ => rfl⟩
  | reset b => cases h
  | drvReady b => cases h

theorem encode_decodeSeq : ∀ c : BitVec 5, encode (decodeSeq c) = .seq c := by decide

/-- The phase code of the micro-operation at PHASE. -/
theorem seq_of_decodeSeq {c : BitVec 5} {i : Instr} (h : decodeSeq c = i) : .seq c = encode i := by
  rw [← h, encode_decodeSeq]

theorem isSequencer_decodeSeq (c : BitVec 5) : isSequencer (decodeSeq c) := ⟨c, encode_decodeSeq c⟩

/-- At an unused code no step goes on (R121). -/
theorem exec_unused_ne_next {c : BitVec 5} (hc : Phase.unused c = true) (s t : State) : exec (decodeSeq c) s ≠ .next t := by
  have hd : ∀ c, Phase.unused c = true → (∃ a, decodeSeq c = .phaseUnused12 a) ∨ (∃ a, decodeSeq c = .phaseUnused14 a) ∨
      ∃ a, decodeSeq c = .phaseUnused18 a := by decide
  intro h
  obtain ⟨a, e⟩ | ⟨a, e⟩ | ⟨a, e⟩ := hd c hc <;> rw [e] at h <;> cases h

/-- `s` with other inputs, schedule and count of choices. -/
def State.queued (inb : List Input) (sch : List Agent) (n : Nat) (s : State) : State :=
  { s with inbox := inb, schedule := sch, turns := n }

theorem State.takeTurn_eq_queued (s : State) : ∃ sch n, s.takeTurn = s.queued s.inbox sch n := by
  unfold State.takeTurn
  split
  · exact ⟨s.schedule, s.turns, rfl⟩
  · split_ifs
    · exact ⟨_, _, rfl⟩
    · exact ⟨s.schedule, s.turns, rfl⟩

theorem State.popInput_eq_queued (s : State) : ∃ inb, s.popInput = s.queued inb s.schedule s.turns := by
  unfold State.popInput
  split
  · exact ⟨s.inbox, rfl⟩
  · split_ifs
    · exact ⟨s.inbox, rfl⟩
    · exact ⟨_, rfl⟩
  all_goals exact ⟨_, rfl⟩

/-- `u.StepFrom t`: what one step does to a state `u` whose input and turn are already used up. -/
inductive State.StepFrom (u : State) : State → Prop
  | unchanged : u.StepFrom u
  | micro {t : State} (hb : u.busy = true) (h : u.MicroStep (decodeSeq u.phase) t) : u.StepFrom t
  | host {t : State} (h : u.HostStep t) : u.StepFrom t
  | drvReady (b : Bool) : u.StepFrom { u with drvReady := b }
  | reset : u.StepFrom u.blockReset
  | resetInFlight {r : GpioRequest} (hb : u.busy = true) (hr : u.request = some r) : u.StepFrom (u.drive r).blockReset

theorem State.stepFrom_microOp {s t : State} (h : exec s.microOp s = .next t) : s.StepFrom t := by
  unfold State.microOp at h
  cases hb : s.busy
  · cases hu : Phase.unused s.phase <;> simp only [hb, hu, Bool.or_self, Bool.or_true, if_true] at h
    · cases h; exact .unchanged
    · exact absurd h (exec_unused_ne_next hu s t)
  · simp only [hb, Bool.true_or, if_true] at h
    exact .micro hb (State.microStep_of_exec (isSequencer_decodeSeq _) h)

theorem State.stepFrom_platform (s : State) (x : Input) : s.StepFrom (s.platform x) := by
  cases x with
  | access | accessAt | poll => exact .unchanged
  | drvReady b => exact .drvReady b
  | reset b =>
    cases b
    · exact .reset
    · change s.StepFrom s.resetInFlight
      unfold State.resetInFlight
      split
      next r hb hr => exact .resetInFlight hb hr
      next => exact .reset

/-- Either the host's next input or the micro-operation at PHASE is fetched. -/
theorem State.fetch_cases (s : State) :
    (∃ x, s.fetch = (fetchInput s.params x, s.takeTurn.popInput.platform x)) ∨ s.fetch = (.run s.microOp, s.takeTurn) := by
  unfold State.fetch
  split
  · exact .inl ⟨_, rfl⟩
  · exact .inr rfl

/-- A step uses up an input and a turn, and does one thing to the rest of the state. -/
theorem State.stepFrom_of_step {s t : State} (h : step s = .next t) : ∃ inb sch n, (s.queued inb sch n).StepFrom t := by
  obtain ⟨sch, n, ht⟩ := s.takeTurn_eq_queued
  obtain ⟨inb, hp⟩ := s.takeTurn.popInput_eq_queued
  obtain ⟨x, hf⟩ | hf := s.fetch_cases
  · refine ⟨inb, sch, n, ?_⟩
    have hq : s.takeTurn.popInput = s.queued inb sch n := by rw [hp, ht]; rfl
    rw [hq] at hf
    cases hx : fetchInput s.params x with
    | run i =>
      rw [hx] at hf
      obtain ⟨hi, hplat⟩ := fetchInput_run hx
      rw [step_of_fetch_run hf, hplat] at h
      exact .host (State.hostStep_of_exec hi h)
    | event =>
      rw [hx] at hf
      rw [step_of_fetch_event hf] at h
      cases h
      exact State.stepFrom_platform _ x
    | invalid e =>
      rw [hx] at hf
      rw [step_of_fetch_invalid hf] at h
      cases h
  · refine ⟨s.inbox, sch, n, ?_⟩
    rw [ht] at hf
    rw [step_of_fetch_run hf] at h
    exact State.stepFrom_microOp h

end Sys2Proof.Machine
end

section
/-! The invariant in parts: the clauses that do not depend on BUSY, those of a running command, those of a running XFER; what keeps each
part; and O43. -/

namespace Sys2Proof.Machine

/-! ## The parts of the invariant -/

/-- The clauses of State.Inv that hold whatever BUSY is. -/
structure State.Steady (s : State) : Prop where
  faulted_eq : s.faulted = s.fault
  fcode_zero : s.fault = false → s.fcode = 0
  fcode_named : s.fault = true → ∃ c : FaultCode, s.fcode = c.code
  tx_wf : s.tx.wf = true
  rx_wf : s.rx.wf = true
  lines_wf : s.lines.wf = true
  tx_bound : ∀ k, s.tx.valid k = true → k < s.bufBytes
  rx_bound : ∀ k, s.rx.valid k = true → k < s.bufBytes
  inited_nodup : s.inited.Nodup
  inited_legal : ∀ p ∈ s.inited, p.distinct = true ∧ p.speedOk = true
  timer_idle : s.timer = 0

/-- A command runs, on a legal port (R42, R305, R306, R310). -/
structure State.InCommand (s : State) : Prop where
  busy : s.busy = true
  no_fault : s.fault = false
  latch : s.port = s.cfgPort
  port_legal : s.port.distinct = true ∧ s.port.speedOk = true

/-- The position of an XFER: J and BITN at each of its phase codes, 0x07 to 0x11 (R230 to R241). -/
structure XferPosition (p : BitVec 5) (j : BitVec 11) (bitn : BitVec 4) (n : Word) : Prop where
  lower : 0x07 ≤ p.toNat
  upper : p.toNat ≤ 0x11
  start : p = Phase.xCsLo → j = 0
  byte : 0x08 ≤ p.toNat → p.toNat ≤ 0x10 → j.toNat < n.toNat
  bit : 0x09 ≤ p.toNat → p.toNat ≤ 0x0F → bitn.toNat < 8
  done : p = Phase.xCsHi → j.toNat = n.toNat

/-- An XFER runs (R230, R308, R309). -/
structure State.InXfer (s : State) : Prop extends s.InCommand where
  inputs : s.nlen = s.len ∧ s.nlen.toNat ≤ s.bufBytes ∧ s.half.toNat = halfPeriod s.port.speed ∧
    s.tx.validBelow s.nlen.toNat = true ∧ s.initialized = true
  stored : ∀ k, s.rx.valid k = true ↔ k < s.j.toNat
  position : XferPosition s.phase s.j s.bitn s.nlen

section
variable {s : State}

theorem State.Inv.steady (h : s.Inv) : s.Steady where
  faulted_eq := h.faulted_eq
  fcode_zero := h.fcode_zero
  fcode_named := h.fcode_named
  tx_wf := h.tx_wf
  rx_wf := h.rx_wf
  lines_wf := h.lines_wf
  tx_bound := h.tx_bound
  rx_bound := h.rx_bound
  inited_nodup := h.inited_nodup
  inited_legal := h.inited_legal
  timer_idle := h.timer_idle

theorem State.Inv.fault_of_busy (h : s.Inv) (hb : s.busy = true) : s.fault = false := by
  cases hf : s.fault
  · rfl
  · exact absurd (h.fault_stops hf) (by simp [hb])

theorem State.Inv.inCommand (h : s.Inv) (hb : s.busy = true) : s.InCommand :=
  ⟨hb, h.fault_of_busy hb, h.latch hb, h.port_legal hb⟩

theorem State.Inv.inXfer (h : s.Inv) (hb : s.busy = true) (hp : 0x07 ≤ s.phase.toNat) : s.InXfer where
  toInCommand := h.inCommand hb
  inputs := h.xfer_inputs hb hp
  stored := h.xfer_stored hb hp
  position := ⟨hp, (h.phase_used hb).2, h.xfer_start hb, h.xfer_byte hb, h.xfer_bit hb, h.xfer_end hb⟩

/-- The invariant of an idle block. -/
theorem State.Steady.inv_of_idle (h : s.Steady) (hb : s.busy = false) (hp : s.phase = Phase.idle) : s.Inv := by
  have hn : s.busy ≠ true := by simp [hb]
  obtain ⟨_, _, _, _, _, _, _, _, _, _, _⟩ := h
  constructor
  case phase_idle => exact fun _ => hp
  case fault_stops => exact fun _ => hb
  all_goals first | assumption | exact fun h => absurd h hn

/-- The invariant while INIT runs. -/
theorem State.Steady.inv_of_init (h : s.Steady) (hc : s.InCommand) (h1 : 1 ≤ s.phase.toNat) (h6 : s.phase.toNat ≤ 6) :
    s.Inv := by
  obtain ⟨hb, hf, hlatch, hlegal⟩ := hc
  have hne : ∀ {p : BitVec 5}, 7 ≤ p.toNat → s.phase ≠ p := fun hp e => by rw [e] at h6; omega
  obtain ⟨_, _, _, _, _, _, _, _, _, _, _⟩ := h
  constructor
  case phase_idle => exact fun h => absurd h (by simp [hb])
  case phase_used => exact fun _ => ⟨h1, by omega⟩
  case fault_stops => exact fun h => absurd h (by simp [hf])
  case latch => exact fun _ => hlatch
  case port_legal => exact fun _ => hlegal
  case xfer_start => exact fun _ e => absurd e (hne (by decide))
  case xfer_end => exact fun _ e => absurd e (hne (by decide))
  case xfer_inputs | xfer_stored | xfer_byte | xfer_bit => intro _ h; omega
  all_goals assumption

/-- The invariant while XFER runs. -/
theorem State.Steady.inv_of_xfer (h : s.Steady) (hx : s.InXfer) : s.Inv := by
  obtain ⟨⟨hb, hf, hlatch, hlegal⟩, hin, hst, hpos⟩ := hx
  obtain ⟨_, _, _, _, _, _, _, _, _, _, _⟩ := h
  constructor
  case phase_idle => exact fun h => absurd h (by simp [hb])
  case phase_used => exact fun _ => ⟨by have := hpos.lower; omega, hpos.upper⟩
  case fault_stops => exact fun h => absurd h (by simp [hf])
  case latch => exact fun _ => hlatch
  case port_legal => exact fun _ => hlegal
  case xfer_inputs => exact fun _ _ => hin
  case xfer_stored => exact fun _ _ => hst
  case xfer_start => exact fun _ => hpos.start
  case xfer_byte => exact fun _ => hpos.byte
  case xfer_bit => exact fun _ => hpos.bit
  case xfer_end => exact fun _ => hpos.done
  all_goals assumption

/-! ## What keeps the parts -/

theorem State.Steady.congr {t : State} (h : s.Steady)
    (he : t.params = s.params ∧ t.fault = s.fault ∧ t.fcode = s.fcode ∧ t.faulted = s.faulted ∧ t.tx = s.tx ∧ t.rx = s.rx ∧
      t.inited = s.inited) (hl : t.lines.wf = true) (ht : t.timer = 0) : t.Steady := by
  obtain ⟨hparams, hfault, hfcode, hfaulted, htx, hrx, hinited⟩ := he
  have hbuf : t.bufBytes = s.bufBytes := by rw [State.bufBytes, hparams, State.bufBytes]
  constructor
  case lines_wf => exact hl
  case timer_idle => exact ht
  all_goals simp only [hbuf, hfault, hfcode, hfaulted, htx, hrx, hinited]
  exacts [h.faulted_eq, h.fcode_zero, h.fcode_named, h.tx_wf, h.rx_wf, h.tx_bound, h.rx_bound, h.inited_nodup,
    h.inited_legal]

theorem State.Steady.drive (h : s.Steady) (r : GpioRequest) : (s.drive r).Steady :=
  h.congr (by simp) (State.drive_lines_wf r h.lines_wf) (by simpa using h.timer_idle)

theorem State.Steady.raiseFault (h : s.Steady) (c : FaultCode) : (s.raiseFault c).Steady :=
  { h with
    faulted_eq := rfl
    fcode_zero := fun hf => absurd hf (by simp)
    fcode_named := fun _ => by
      cases hf : s.fault
      · exact ⟨c, by simp [hf]⟩
      · obtain ⟨c', hc'⟩ := h.fcode_named hf
        exact ⟨c', by simp [hf, hc']⟩ }

theorem State.Steady.driverError (h : s.Steady) : s.driverError.Steady :=
  State.Steady.raiseFault (s := { s with faultPhase := some s.phase }) { h with } .driverError

theorem State.Steady.blockReset (h : s.Steady) : s.blockReset.Steady where
  faulted_eq := rfl
  fcode_zero := fun _ => rfl
  fcode_named := fun hf => absurd hf (by simp [State.blockReset])
  tx_wf := rfl
  rx_wf := rfl
  lines_wf := h.lines_wf
  tx_bound := fun k hk => absurd hk (by simp [State.blockReset])
  rx_bound := fun k hk => absurd hk (by simp [State.blockReset])
  inited_nodup := List.nodup_nil
  inited_legal := fun p hp => absurd hp (by simp [State.blockReset])
  timer_idle := rfl

theorem State.Steady.inv_driverError (h : s.Steady) : s.driverError.Inv := h.driverError.inv_of_idle rfl rfl

theorem State.Steady.inv_blockReset (h : s.Steady) : s.blockReset.Inv := h.blockReset.inv_of_idle rfl rfl

theorem State.InCommand.drive (h : s.InCommand) (r : GpioRequest) : (s.drive r).InCommand where
  busy := by simpa using h.busy
  no_fault := by simpa using h.no_fault
  latch := by simpa [State.cfgPort] using h.latch
  port_legal := by simpa using h.port_legal

/-- Only an acknowledged direction request changes a direction (R46). -/
theorem State.drive_dir_of_not_setDir {r : GpioRequest} (hw : s.lines.wf = true) (hk : r.kind ≠ .setDir) (q : Word) :
    (s.drive r).dir q = s.dir q := by
  unfold State.drive State.serve
  split_ifs
  · exact State.dir_setLevel _ _ hw q
  · cases hr : r.kind
    · exact absurd hr hk
    · exact State.dir_setLevel _ _ hw q
    · rfl

theorem State.initialized_iff (s : State) : s.initialized = true ↔ s.cfgPort ∈ s.inited ∧ s.dir s.cfgCs = .output ∧
    s.dir s.cfgClk = .output ∧ s.dir s.cfgMosi = .output ∧ s.dir s.cfgMiso = .input := by
  simp [State.initialized, and_assoc]

theorem State.drive_initialized {r : GpioRequest} (hw : s.lines.wf = true) (hk : r.kind ≠ .setDir) :
    (s.drive r).initialized = s.initialized := by
  rw [Bool.eq_iff_iff, State.initialized_iff, State.initialized_iff]
  simp [State.cfgPort, State.drive_dir_of_not_setDir hw hk]

theorem State.InXfer.drive {r : GpioRequest} (h : s.InXfer) (hw : s.lines.wf = true) (hk : r.kind ≠ .setDir) :
    (s.drive r).InXfer where
  toInCommand := h.toInCommand.drive r
  inputs := by simpa [State.drive_initialized hw hk, State.bufBytes] using h.inputs
  stored := by simpa using h.stored
  position := by simpa using h.position

theorem State.InXfer.goto {p : BitVec 5} (h : s.InXfer) (hp : XferPosition p s.j s.bitn s.nlen) : (s.goto p).InXfer :=
  { h with position := hp }

theorem XferPosition.within_bit {p q : BitVec 5} {j : BitVec 11} {bitn : BitVec 4} {n : Word}
    (h : XferPosition p j bitn n) (hp : 0x09 ≤ p.toNat ∧ p.toNat ≤ 0x0F) (hq : 0x09 ≤ q.toNat ∧ q.toNat ≤ 0x0F) :
    XferPosition q j bitn n where
  lower := by omega
  upper := by omega
  start := by rintro rfl; exact absurd hq (by decide)
  byte := fun _ _ => h.byte (by omega) (by omega)
  bit := fun _ _ => h.bit hp.1 hp.2
  done := by rintro rfl; exact absurd hq (by decide)

theorem State.Steady.goto (h : s.Steady) (p : BitVec 5) : (s.goto p).Steady := { h with }

theorem State.Steady.inv_goto_init {p : BitVec 5} (h : s.Steady) (hc : s.InCommand) (hp : 1 ≤ p.toNat ∧ p.toNat ≤ 6) :
    (s.goto p).Inv :=
  (h.goto p).inv_of_init { hc with } hp.1 hp.2

theorem State.Steady.inv_goto_xfer {p : BitVec 5} (h : s.Steady) (hx : s.InXfer) (hp : XferPosition p s.j s.bitn s.nlen) :
    (s.goto p).Inv :=
  (h.goto p).inv_of_xfer (hx.goto hp)

/-! ## Every micro-operation keeps the invariant -/

theorem State.Steady.addInited (h : s.Steady) (hl : s.port.distinct = true ∧ s.port.speedOk = true) :
    s.addInited.Steady := by
  unfold State.addInited
  split_ifs with hm
  · exact { h with }
  · exact { h with
      inited_nodup := List.nodup_append.mpr ⟨h.inited_nodup, List.nodup_singleton _, fun a ha b hb e => by
        rw [List.mem_singleton] at hb
        exact hm (hb ▸ e ▸ ha)⟩
      inited_legal := fun p hp => by
        obtain hp | hp := List.mem_append.mp hp
        · exact h.inited_legal p hp
        · rw [List.mem_singleton.mp hp]; exact hl }

/-- After X_CS_LO comes X_LOAD, or X_CS_HI when there is no byte to send (R231). -/
theorem XferPosition.after_xCsLo {j : BitVec 11} {bitn : BitVec 4} {n : Word} (h : XferPosition Phase.xCsLo j bitn n) :
    XferPosition (if n = 0 then Phase.xCsHi else Phase.xLoad) j bitn n := by
  have hj := h.start rfl
  split_ifs with hn
  · exact ⟨by decide, by decide, fun e => absurd e (by decide), fun _ e => absurd e (by decide),
      fun _ e => absurd e (by decide), fun _ => by rw [hj, hn]; rfl⟩
  · have : n.toNat ≠ 0 := fun e => hn (BitVec.eq_of_toNat_eq e)
    exact ⟨by decide, by decide, fun e => absurd e (by decide), fun _ _ => by rw [hj]; exact Nat.pos_of_ne_zero this,
      fun e => absurd e (by decide), fun e => absurd e (by decide)⟩

/-- After X_LOAD comes the first bit (R232). -/
theorem XferPosition.after_xLoad {j : BitVec 11} {bitn : BitVec 4} {n : Word} (h : XferPosition Phase.xLoad j bitn n) :
    XferPosition Phase.xClkLo j 0 n where
  lower := by decide
  upper := by decide
  start := fun e => absurd e (by decide)
  byte := fun _ _ => h.byte (by decide) (by decide)
  bit := fun _ _ => by decide
  done := fun e => absurd e (by decide)

/-- After X_SHIFT comes the next bit, or X_STORE after the eighth (R239). -/
theorem XferPosition.after_xShift {j : BitVec 11} {bitn : BitVec 4} {n : Word} (h : XferPosition Phase.xShift j bitn n) :
    XferPosition (if bitn + 1 = 8 then Phase.xStore else Phase.xClkLo) j (bitn + 1) n := by
  have hj := h.byte (by decide) (by decide)
  have hb := h.bit (by decide) (by decide)
  split_ifs with h8
  · exact ⟨by decide, by decide, fun e => absurd e (by decide), fun _ _ => hj, fun _ e => absurd e (by decide),
      fun e => absurd e (by decide)⟩
  · exact ⟨by decide, by decide, fun e => absurd e (by decide), fun _ _ => hj, fun _ _ => by bv_omega,
      fun e => absurd e (by decide)⟩

/-- J is one of at most 1024 indexes, so it counts without overflow. -/
theorem toNat_succ_of_lt_bufBytes {j : BitVec 11} {n : Word} (hj : j.toNat < n.toNat) (hn : n.toNat ≤ s.bufBytes) :
    (j + 1).toNat = j.toNat + 1 := by
  have : s.bufBytes ≤ 1024 := s.params.bufLast.isLt
  bv_omega

/-- After X_STORE comes the next byte, or X_CS_HI after the last (R240). -/
theorem XferPosition.after_xStore {j : BitVec 11} {bitn : BitVec 4} {n : Word} (h : XferPosition Phase.xStore j bitn n)
    (hn : n.toNat ≤ s.bufBytes) :
    XferPosition (if (j + 1).toNat = n.toNat then Phase.xCsHi else Phase.xLoad) (j + 1) bitn n := by
  have hj := h.byte (by decide) (by decide)
  have hs := toNat_succ_of_lt_bufBytes hj hn
  split_ifs with hlast
  · exact ⟨by decide, by decide, fun e => absurd e (by decide), fun _ e => absurd e (by decide),
      fun _ e => absurd e (by decide), fun _ => hlast⟩
  · exact ⟨by decide, by decide, fun e => absurd e (by decide), fun _ _ => by omega, fun e => absurd e (by decide),
      fun e => absurd e (by decide)⟩

/-- The acknowledged micro-operations, by their phase code. -/
theorem State.Inv.acked {i : Instr} {r : GpioRequest} (h : s.Inv) (hb : s.busy = true) (hi : decodeSeq s.phase = i)
    (hr : s.requestOf i = some r) (resp : GpioResponse) : (State.afterAck resp (s.drive r) i).Inv := by
  have hs := h.steady.drive r
  have hc := (h.inCommand hb).drive r
  have hx : 0x07 ≤ s.phase.toNat → r.kind ≠ .setDir → (s.drive r).InXfer :=
    fun hp hk => (h.inXfer hb hp).drive h.lines_wf hk
  have hphase := seq_of_decodeSeq hi
  cases i <;> cases hr
  all_goals injection hphase with hphase
  case iDirCs | iDirClk | iDirMosi | iDirMiso | iCsHi =>
    exact hs.inv_goto_init hc (by decide)
  case iClkHi =>
    have ha := hs.addInited hc.port_legal
    exact State.Steady.inv_of_idle { ha with } rfl rfl
  case xCsHi => exact State.Steady.inv_of_idle { hs with } rfl rfl
  case' xCsLo | xClkLo | xMosi | xClkHi | xSample =>
    have hx := hx (by rw [hphase]; decide) (by simp [gpioWrite, gpioRead])
    have hpos := hx.position
    rw [State.drive_phase, hphase] at hpos
  case xCsLo => exact hs.inv_goto_xfer hx hpos.after_xCsLo
  case xClkLo | xMosi | xClkHi => exact hs.inv_goto_xfer hx (hpos.within_bit (by decide) (by decide))
  case xSample =>
    exact State.Steady.inv_goto_xfer { hs with } { hx with } (hpos.within_bit (by decide) (by decide))

/-- A Hold changes PHASE, the trace and nothing else that lasts (R283). -/
theorem State.Steady.holdHalf (h : s.Steady) (p : BitVec 5) : (s.holdHalf p).Steady :=
  h.congr (by simp) (by simpa using h.lines_wf) (State.holdHalf_timer s p)

theorem State.InXfer.holdHalf {p : BitVec 5} (h : s.InXfer) (hp : XferPosition p s.j s.bitn s.nlen) :
    (s.holdHalf p).InXfer where
  busy := by simpa using h.busy
  no_fault := by simpa using h.no_fault
  latch := by simpa [State.cfgPort] using h.latch
  port_legal := by simpa using h.port_legal
  inputs := by simpa [State.bufBytes, State.initialized_iff, State.cfgPort, State.dir] using h.inputs
  stored := by simpa using h.stored
  position := by simpa using hp

/-- X_STORE adds the entry J and no other (R240). -/
theorem State.InXfer.stored_after_xStore (h : s.InXfer) (hp : s.phase = Phase.xStore) (k : Nat) :
    (s.rx.store s.j.toNat s.insr).valid k = true ↔ k < (s.j + 1).toNat := by
  have hj := h.position.byte (by rw [hp]; decide) (by rw [hp]; decide)
  rw [toNat_succ_of_lt_bufBytes hj h.inputs.2.1, Memory.valid_store, Bool.or_eq_true, decide_eq_true_eq, h.stored]
  omega

/-- X_STORE stores below BUF_BYTES (R83). -/
theorem State.InXfer.rx_bound_after_xStore (h : s.InXfer) (hb : ∀ k, s.rx.valid k = true → k < s.bufBytes)
    (hp : s.phase = Phase.xStore) (k : Nat) (hk : (s.rx.store s.j.toNat s.insr).valid k = true) : k < s.bufBytes := by
  have hj := h.position.byte (by rw [hp]; decide) (by rw [hp]; decide)
  obtain ⟨-, hn, -⟩ := h.inputs
  rw [Memory.valid_store, Bool.or_eq_true, decide_eq_true_eq] at hk
  obtain rfl | hk := hk
  · omega
  · exact hb k hk

theorem State.Inv.micro {t : State} (h : s.Inv) (hb : s.busy = true) (hm : s.MicroStep (decodeSeq s.phase) t) : t.Inv := by
  have hs := h.steady
  have hx : ∀ p, .seq s.phase = CodeWord.seq p → 0x07 ≤ p.toNat → s.InXfer ∧ XferPosition p s.j s.bitn s.nlen := by
    intro p hp h7
    injection hp with hp
    have hx := h.inXfer hb (hp ▸ h7)
    exact ⟨hx, hp ▸ hx.position⟩
  generalize hi : decodeSeq s.phase = i at hm
  have hc := seq_of_decodeSeq hi
  cases hm with
  | idle => exact h
  | failed hr he => exact (hs.drive _).inv_driverError
  | acked hr he => exact h.acked hb hi hr _
  | load =>
    obtain ⟨hx, hpos⟩ := hx _ hc (by decide)
    exact State.Steady.inv_of_xfer { hs with } { hx with position := hpos.after_xLoad }
  | hold1 =>
    obtain ⟨hx, hpos⟩ := hx _ hc (by decide)
    exact (hs.holdHalf _).inv_of_xfer (hx.holdHalf (hpos.within_bit (by decide) (by decide)))
  | hold2 =>
    obtain ⟨hx, hpos⟩ := hx _ hc (by decide)
    exact (hs.holdHalf _).inv_of_xfer (hx.holdHalf (hpos.within_bit (by decide) (by decide)))
  | shift =>
    obtain ⟨hx, hpos⟩ := hx _ hc (by decide)
    exact State.Steady.inv_of_xfer { hs with } { hx with position := hpos.after_xShift }
  | store =>
    obtain ⟨hx, hpos⟩ := hx _ hc (by decide)
    injection hc with hc
    exact State.Steady.inv_of_xfer
      { hs with rx_wf := Memory.wf_store _ _ hs.rx_wf, rx_bound := hx.rx_bound_after_xStore hs.rx_bound hc }
      { hx with stored := hx.stored_after_xStore hc, position := hpos.after_xStore hx.inputs.2.1 }

/-! ## Every host access keeps the invariant -/

/-- A half-period fits HALF, which has 29 bits (R281). -/
theorem halfPeriod_le (v : Word) : halfPeriod v ≤ 500000000 := by
  unfold halfPeriod
  rw [Int.tdiv_eq_ediv_of_nonneg (by norm_num), Int.toNat_le]
  exact Int.ediv_le_self _ (by norm_num)

theorem State.Steady.storeTx (h : s.Steady) {k : Nat} (hk : k < s.bufBytes) (b : Byte) :
    State.Steady { s with tx := s.tx.store k b } :=
  { h with
    tx_wf := Memory.wf_store _ _ h.tx_wf
    tx_bound := fun m hm => by
      rw [Memory.valid_store, Bool.or_eq_true, decide_eq_true_eq] at hm
      obtain rfl | hm := hm
      · exact hk
      · exact h.tx_bound m hm }

theorem State.Inv.acceptInit (h : s.Inv) (hp : s.portFault = none) (hf : s.fault = false) : s.acceptInit.Inv := by
  obtain ⟨-, hd, hs⟩ := State.portFault_none hp
  exact State.Steady.inv_goto_init { h.steady with } ⟨rfl, hf, rfl, hd, hs⟩ (by decide)

theorem XferPosition.at_xCsLo (bitn : BitVec 4) (n : Word) : XferPosition Phase.xCsLo 0 bitn n :=
  ⟨by decide, by decide, fun _ => rfl, fun e => absurd e (by decide), fun e => absurd e (by decide),
    fun e => absurd e (by decide)⟩

theorem State.Inv.acceptXfer (h : s.Inv) (hp : s.portFault = none) (hx : s.transferFault = none) (hf : s.fault = false) :
    s.acceptXfer.Inv := by
  obtain ⟨-, hd, hs⟩ := State.portFault_none hp
  obtain ⟨hlen, hvalid, hinit⟩ := State.transferFault_none hx
  have hhalf : (BitVec.ofNat 29 (halfPeriod s.cfgSpeed)).toNat = halfPeriod s.cfgSpeed := by
    have := halfPeriod_le s.cfgSpeed
    rw [BitVec.toNat_ofNat, Nat.mod_eq_of_lt (by omega)]
  exact State.Steady.inv_of_xfer { h.steady with rx_wf := rfl, rx_bound := fun k hk => absurd hk (by simp) } {
    busy := rfl
    no_fault := hf
    latch := rfl
    port_legal := ⟨hd, hs⟩
    inputs := ⟨rfl, hlen, hhalf, hvalid, hinit⟩
    stored := fun k => by simp [State.acceptXfer]
    position := XferPosition.at_xCsLo _ _ }

theorem State.Inv.host {t : State} (h : s.Inv) (hm : s.HostStep t) : t.Inv := by
  have hs := h.steady
  cases hm with
  | answered a => clear hs; cases h; constructor <;> assumption
  | raised c hf => exact State.Steady.inv_of_idle { hs.raiseFault c with } rfl rfl
  | config cs clk mosi miso speed hf hb => exact State.Steady.inv_of_idle { hs with } hb (h.phase_idle hb)
  | length v hf hb => exact State.Steady.inv_of_idle { hs with } hb (h.phase_idle hb)
  | txbuf k b hk hf hb => exact State.Steady.inv_of_idle { hs.storeTx hk b with } hb (h.phase_idle hb)
  | init hp hf hb => cases h.acceptInit hp hf; constructor <;> assumption
  | xfer hp hx hf hb => cases h.acceptXfer hp hx hf; constructor <;> assumption

/-! ## Every step keeps the invariant -/

theorem State.Inv.queued (h : s.Inv) (inb : List Input) (sch : List Agent) (n : Nat) : (s.queued inb sch n).Inv := by
  cases h; constructor <;> assumption

theorem State.Inv.stepFrom {t : State} (h : s.Inv) (hm : s.StepFrom t) : t.Inv := by
  cases hm with
  | unchanged => exact h
  | micro hb hm => exact h.micro hb hm
  | host hm => exact h.host hm
  | drvReady b => cases h; constructor <;> assumption
  | reset => exact h.steady.inv_blockReset
  | resetInFlight hb hr => exact (h.steady.drive _).inv_blockReset

theorem State.Inv.step {t : State} (h : s.Inv) (hst : step s = .next t) : t.Inv := by
  obtain ⟨inb, sch, n, hm⟩ := State.stepFrom_of_step hst
  exact (h.queued inb sch n).stepFrom hm

end

/-- Settles O43: the parts of the invariant, through everything a step can do. -/
theorem stepKeepsTheInvariant : Obligations.StepKeepsTheInvariant := fun _ _ h hst => h.step hst

end Sys2Proof.Machine
end

section
/-! Rules about every step (O45, O46, O47), the frame of the micro-operations (O39) and the failed request (O30), from what a request, a
micro-operation and a step can do. -/

namespace Sys2Proof.Machine

section
variable {s t : State}

/-! ## The trace -/

theorem State.drive_trace_extends (s : State) (r : GpioRequest) : ∃ es, (s.drive r).trace = s.trace ++ es := by
  obtain ⟨-, e⟩ | ⟨-, d, e⟩ | ⟨-, l, e⟩ | ⟨-, l, e⟩ := s.drive_cases r <;> rw [e]
  · exact ⟨[], by simp⟩
  · exact ⟨_, by simp; rfl⟩
  · exact ⟨_, by simp; rfl⟩
  · exact ⟨_, by simp; rfl⟩

theorem State.afterAck_trace (resp : GpioResponse) (t : State) (i : Instr) : (t.afterAck resp i).trace = t.trace := by
  obtain ⟨p, b, l, x, e, -⟩ := t.afterAck_eq resp i
  rw [e]

theorem State.MicroStep.trace_extends {i : Instr} (h : s.MicroStep i t) : ∃ es, t.trace = s.trace ++ es := by
  cases h with
  | @failed _ r hr he =>
    obtain ⟨es, h⟩ := s.drive_trace_extends r
    exact ⟨es ++ [.fault .driverError], by simp [h]⟩
  | @acked _ r hr he =>
    obtain ⟨es, h⟩ := s.drive_trace_extends r
    exact ⟨es, by rw [State.afterAck_trace, h]⟩
  | hold1 | hold2 => exact ⟨_, State.holdHalf_trace _ _⟩
  | idle | load | shift | store => exact ⟨[], by simp⟩

theorem State.HostStep.trace_extends (h : s.HostStep t) : ∃ es, t.trace = s.trace ++ es := by
  cases h with
  | raised c => exact ⟨_, State.raiseFault_trace s c⟩
  | answered | config | length | txbuf | init | xfer => exact ⟨[], by simp [State.acceptInit, State.acceptXfer]⟩

theorem State.StepFrom.trace_extends (h : s.StepFrom t) : ∃ es, t.trace = s.trace ++ es := by
  cases h with
  | micro hb h => exact h.trace_extends
  | host h => exact h.trace_extends
  | resetInFlight hb hr => exact s.drive_trace_extends _
  | unchanged | drvReady | reset => exact ⟨[], by simp [State.blockReset]⟩

/-- Settles O45: no case of a step takes an event back. -/
theorem traceOnlyGrows : Obligations.TraceOnlyGrows := by
  intro s t h
  obtain ⟨inb, sch, n, hs⟩ := State.stepFrom_of_step h
  exact hs.trace_extends

/-! ## BUSY -/

/-- The state after an accepted command: its port is legal and latched, its first micro-operation is next (R166). -/
structure State.Accepted (s t : State) : Prop where
  first : t.phase = Phase.iDirCs ∨ t.phase = Phase.xCsLo
  no_fault : s.fault = false
  ready : s.drvReady = true
  latched : t.port = s.cfgPort
  distinct : t.port.distinct = true
  speedOk : t.port.speedOk = true

theorem State.HostStep.accepted_of_busy (h : s.HostStep t) (hb : s.busy = false) (ht : t.busy = true) : s.Accepted t := by
  cases h with
  | init hp hf =>
    obtain ⟨hr, hd, hs⟩ := State.portFault_none hp
    exact ⟨.inl rfl, hf, hr, rfl, hd, hs⟩
  | xfer hp hx hf =>
    obtain ⟨hr, hd, hs⟩ := State.portFault_none hp
    exact ⟨.inr rfl, hf, hr, rfl, hd, hs⟩
  | answered | raised | config | length | txbuf => simp [hb] at ht

theorem State.StepFrom.accepted_of_busy (h : s.StepFrom t) (hb : s.busy = false) (ht : t.busy = true) : s.Accepted t := by
  cases h with
  | host h => exact h.accepted_of_busy hb ht
  | micro hb' | resetInFlight hb' => simp [hb] at hb'
  | unchanged | drvReady => simp [hb] at ht
  | reset => simp [State.blockReset] at ht

/-- Settles O46: of everything a step can do, only the two acceptances set BUSY. -/
theorem onlyAnAcceptedCommandSetsBusy : Obligations.OnlyAnAcceptedCommandSetsBusy := by
  intro s t h hb ht
  obtain ⟨inb, sch, n, hs⟩ := State.stepFrom_of_step h
  obtain ⟨hfirst, hfault, hready, hlatched, hdistinct, hspeed⟩ := hs.accepted_of_busy hb ht
  exact ⟨hfirst, hfault, hready, hlatched, hdistinct, (Port.speedOk_iff _).mp hspeed⟩

/-! ## Directions -/

/-- A request changes the direction of its own pin only, and only a direction request does (R46). -/
theorem State.setDir_of_drive_dir_ne {r : GpioRequest} {p : Word} (hw : s.lines.wf = true) (h : (s.drive r).dir p ≠ s.dir p) :
    r.kind = .setDir ∧ p = r.pin := by
  have hk : r.kind = .setDir := by
    by_contra hk
    exact h (State.drive_dir_of_not_setDir hw hk p)
  refine ⟨hk, ?_⟩
  by_contra hp
  apply h
  obtain ⟨-, e⟩ | ⟨-, d, e⟩ | ⟨-, l, e⟩ | ⟨-, l, e⟩ := s.drive_cases r <;> rw [e]
  · exact State.dir_setLevel _ _ hw p
  · exact (State.dir_setDir _ _ hw p).trans (if_neg (Ne.symm hp))
  · exact State.dir_setLevel _ _ hw p
  · rfl

theorem of_ite_eq_some {α : Type} {p : Prop} [Decidable p] {a b : α} {o : Option α}
    (h : (if p then some a else o) = some b) : p ∧ a = b ∨ o = some b := by
  split_ifs at h with hp
  · exact .inl ⟨hp, Option.some.inj h⟩
  · exact .inr h

/-- The request at PHASE is that of the micro-operation at PHASE (R120). -/
theorem State.request_eq_some_iff {r : GpioRequest} : s.request = some r ↔ s.requestOf (decodeSeq s.phase) = some r := by
  constructor
  · intro hr
    unfold State.request at hr
    iterate 12
      obtain ⟨h, rfl⟩ | hr := of_ite_eq_some hr
      · rw [h]; rfl
    cases hr
  · intro hr
    generalize hi : decodeSeq s.phase = i at hr
    have hp := seq_of_decodeSeq hi
    unfold State.request
    cases i <;> cases hr <;> injection hp with hp <;> rw [hp] <;> rfl

/-- The direction requests, by PHASE (R201 to R204). -/
theorem State.phase_of_request_setDir {r : GpioRequest} (hr : s.request = some r) (hk : r.kind = .setDir) :
    s.phase = 0x01 ∧ r.pin = s.port.cs ∨ s.phase = 0x02 ∧ r.pin = s.port.clk ∨ s.phase = 0x03 ∧ r.pin = s.port.mosi ∨
      s.phase = 0x04 ∧ r.pin = s.port.miso := by
  rw [State.request_eq_some_iff] at hr
  generalize hi : decodeSeq s.phase = i at hr
  have hp := seq_of_decodeSeq hi
  cases i <;> cases hr <;> injection hp with hp
  case iDirCs => exact .inl ⟨hp, rfl⟩
  case iDirClk => exact .inr (.inl ⟨hp, rfl⟩)
  case iDirMosi => exact .inr (.inr (.inl ⟨hp, rfl⟩))
  case iDirMiso => exact .inr (.inr (.inr ⟨hp, rfl⟩))
  all_goals cases hk

/-- The lines after a micro-operation are those that its request leaves. -/
theorem State.MicroStep.lines {i : Instr} (h : s.MicroStep i t) :
    t.lines = s.lines ∨ ∃ r, s.requestOf i = some r ∧ t.lines = (s.drive r).lines := by
  cases h with
  | @failed _ r hr he => exact .inr ⟨r, hr, rfl⟩
  | @acked _ r hr he =>
    obtain ⟨p, b, l, x, e, -⟩ := (s.drive r).afterAck_eq (respond r s.nextAnswer) i
    exact .inr ⟨r, hr, by rw [e]⟩
  | hold1 | hold2 => exact .inl (State.holdHalf_lines _ _)
  | idle | load | shift | store => exact .inl rfl

theorem State.HostStep.lines (h : s.HostStep t) : t.lines = s.lines := by
  cases h <;> rfl

/-- The lines after a step are those that the request at PHASE leaves, or as they were. -/
theorem State.StepFrom.lines (h : s.StepFrom t) :
    t.lines = s.lines ∨ s.busy = true ∧ ∃ r, s.request = some r ∧ t.lines = (s.drive r).lines := by
  cases h with
  | micro hb h =>
    obtain e | ⟨r, hr, e⟩ := h.lines
    · exact .inl e
    · exact .inr ⟨hb, r, State.request_eq_some_iff.mpr hr, e⟩
  | host h => exact .inl h.lines
  | resetInFlight hb hr => exact .inr ⟨hb, _, hr, rfl⟩
  | unchanged | drvReady | reset => exact .inl rfl

/-- Settles O47: a changed direction is that of the pin of a direction request at PHASE. -/
theorem directionsChangeOnlyInInit : Obligations.DirectionsChangeOnlyInInit := by
  intro s t p hw h hne
  obtain ⟨inb, sch, n, hs⟩ := State.stepFrom_of_step h
  obtain e | ⟨hb, r, hr, e⟩ := hs.lines
  · exact absurd (by simp [State.dir, e, State.queued]) hne
  · have hdir : ((s.queued inb sch n).drive r).dir p ≠ (s.queued inb sch n).dir p := by
      rw [State.dir, ← e]
      exact hne
    obtain ⟨hk, rfl⟩ := State.setDir_of_drive_dir_ne (s := s.queued inb sch n) hw hdir
    exact ⟨hb, State.phase_of_request_setDir hr hk⟩

/-! ## The frame of the micro-operations -/

/-- A micro-operation with a request is none of the six without (R120). -/
theorem State.ne_of_requestOf {i : Instr} {r : GpioRequest} (hr : s.requestOf i = some r) :
    i ≠ .idle ∧ i ≠ .xLoad ∧ i ≠ .xHold1 ∧ i ≠ .xHold2 ∧ i ≠ .xShift ∧ i ≠ .xStore := by
  refine ⟨?_, ?_, ?_, ?_, ?_, ?_⟩ <;> rintro rfl <;> cases hr

/-- Settles O39: for each outcome of a micro-operation, what it leaves. -/
theorem microOperationFrame : Obligations.MicroOperationFrame := by
  intro i s t hi h
  cases State.microStep_of_exec hi h with
  | idle => simp
  | @failed _ r hr he => simp [State.cfgPort, Phase.idle, he, State.ne_of_requestOf hr]
  | @acked _ r hr he =>
    obtain ⟨p, b, l, x, e, hb, hl, hx⟩ := (s.drive r).afterAck_eq (respond r s.nextAnswer) i
    simp only [State.drive_busy, State.drive_inited, State.drive_insr] at hb hl hx
    rw [e]
    have hrest : (b = s.busy ∨ p = 0x00) ∧ (i = .iClkHi ∨ l = s.inited) ∧ (i = .xSample ∨ x = s.insr) :=
      ⟨hb.imp_right And.right, hl, hx⟩
    simpa [State.cfgPort, State.ne_of_requestOf hr] using hrest
  | load | hold1 | hold2 | shift => simp [State.cfgPort]
  | store =>
    have hrx : ∀ m, m = s.j.toNat ∨ (s.rx.store s.j.toNat s.insr).read m = s.rx.read m := fun m =>
      (eq_or_ne m s.j.toNat).imp_right fun hm => Memory.read_store_other _ _ hm.symm
    simpa [State.cfgPort] using hrx

/-! ## The failed request -/

theorem exec_of_failed {i : Instr} {r : GpioRequest} (hr : s.requestOf i = some r) (he : s.nextAnswer.err = true) :
    exec i s = .next (s.drive r).driverError := by
  rw [exec_of_requestOf hr, State.gpio_err _ _ he]

@[simp] theorem State.driverError_dir (s : State) (q : Word) : s.driverError.dir q = s.dir q := by
  simp [State.dir]

@[simp] theorem State.driverError_level (s : State) (q : Word) : s.driverError.level q = s.level q := by
  simp [State.level]

/-- The state that a failed request leaves is the entry of DRIVER_ERROR, with PHASE recorded (R301, R310, R320). -/
theorem State.afterFault_of_failed (hf : s.fault = false) (pin : Word) :
    State.AfterFault
      { s with answers := s.answers.tail, draws := s.draws + 1, lines := s.lines.store pin ⟨s.dir pin, .unknown⟩,
               faultPhase := some s.phase } .driverError (s.takeAnswer.setLevel pin .unknown).driverError := by
  simp [State.AfterFault, State.driverError, State.raiseFault, State.faultFlags, State.goto, State.record, State.setLevel,
    State.takeAnswer, State.dir, hf]

/-- Settles O30: each of the twelve micro-operations enters DRIVER_ERROR from the failed request on its pin. -/
theorem failedRequestRaisesDriverError : Obligations.FailedRequestRaisesDriverError := by
  intro s hw hf he e hmem
  obtain ⟨r, hr, hpin⟩ : ∃ r, s.requestOf e.1 = some r ∧ r.pin = e.2 := by
    simp only [List.mem_cons, List.not_mem_nil, or_false] at hmem
    obtain rfl | rfl | rfl | rfl | rfl | rfl | rfl | rfl | rfl | rfl | rfl | rfl := hmem <;> exact ⟨_, rfl, rfl⟩
  refine ⟨_, exec_of_failed hr he, ?_⟩
  rw [← hpin, State.drive_err r he, State.driverError_lines]
  refine ⟨State.afterFault_of_failed hf r.pin, State.drive_err r he ▸ State.drive_lines_wf r hw, by simp, fun q => ?_⟩
  rw [State.driverError_dir, State.driverError_level]
  exact ⟨State.dir_setLevel _ _ hw q, (State.level_setLevel _ _ hw q).trans (if_congr eq_comm rfl rfl)⟩

end

end Sys2Proof.Machine
end

section
/-! The platform's inputs, RST, placed words and the acceptance of INIT: O7, O9, O23, O40, O41. -/

namespace Sys2Proof.Machine

section
variable {s : State}

/-! ## INIT (R200) -/

/-- INIT checks the port and nothing else. -/
theorem State.command_init (s : State) : s.command CmdOp.init.word =
    match s.portFault with
    | some c => s.raiseFault c
    | none => s.acceptInit := by
  cases hp : s.portFault <;> simp [State.command, State.commandFault, hp]

theorem State.portFault_eq_none (hr : s.drvReady = true) (hd : s.cfgPort.distinct = true) (hs : s.cfgPort.speedOk = true) :
    s.portFault = none := by
  simp [State.portFault, hr, hd, hs]

theorem exec_init_of_idle (hf : s.fault = false) (hb : s.busy = false) :
    exec .init s = .next ((s.command CmdOp.init.word).reply .done) := by
  change Host.Outcome.next (s.writeCmd CmdOp.init.word) = _
  simp [State.writeCmd, State.hostWrite, hf, hb]

/-- `s` with another length and other buffers. -/
def State.withTransfer (len : Word) (tx rx : Memory) (s : State) : State := { s with len := len, tx := tx, rx := rx }

/-- A write commutes with `withTransfer` when its effect does. -/
theorem State.hostWrite_withTransfer {len : Word} {tx rx : Memory} {f : State → State}
    (h : f (s.withTransfer len tx rx) = (f s).withTransfer len tx rx) :
    (s.withTransfer len tx rx).hostWrite f = (s.hostWrite f).withTransfer len tx rx := by
  unfold State.hostWrite
  rw [h]
  change (if s.fault then _ else if s.busy then _ else _) = _
  split_ifs <;> rfl

theorem State.command_init_withTransfer (len : Word) (tx rx : Memory) :
    (s.withTransfer len tx rx).command CmdOp.init.word = (s.command CmdOp.init.word).withTransfer len tx rx := by
  have hp : (s.withTransfer len tx rx).portFault = s.portFault := rfl
  rw [State.command_init, State.command_init, hp]
  cases s.portFault <;> rfl

theorem exec_init_withTransfer (s : State) (len : Word) (tx rx : Memory) :
    exec .init (s.withTransfer len tx rx) = .next ((s.writeCmd CmdOp.init.word).withTransfer len tx rx) :=
  congrArg Host.Outcome.next (State.hostWrite_withTransfer (State.command_init_withTransfer len tx rx))

/-- INIT keeps LEN and the buffers: it commutes with giving them their own values. -/
theorem State.writeCmd_init_keeps (s : State) :
    (s.writeCmd CmdOp.init.word).len = s.len ∧ (s.writeCmd CmdOp.init.word).tx = s.tx ∧
      (s.writeCmd CmdOp.init.word).rx = s.rx := by
  have h : s.writeCmd CmdOp.init.word = (s.writeCmd CmdOp.init.word).withTransfer s.len s.tx s.rx :=
    Host.Outcome.next.inj (exec_init_withTransfer s s.len s.tx s.rx)
  rw [h]
  exact ⟨rfl, rfl, rfl⟩

/-- Settles O23: the acceptance from its conditions; INIT commutes with a change of LEN and the buffers. -/
theorem initIsAccepted : Obligations.InitIsAccepted := by
  refine ⟨?accepted, ?reads⟩
  case accepted =>
    intro s hf hb hr h1 h2 h3 h4 h5 h6 hs
    have hp := State.portFault_eq_none hr ((Port.distinct_iff _).mpr ⟨h1, h2, h3, h4, h5, h6⟩) ((Port.speedOk_iff _).mpr hs)
    rw [exec_init_of_idle hf hb, State.command_init, hp]
    rfl
  case reads =>
    intro s t len tx rx h
    cases h
    obtain ⟨hlen, htx, hrx⟩ := s.writeCmd_init_keeps
    exact ⟨hlen, htx, hrx, exec_init_withTransfer s len tx rx⟩

/-! ## The host's turn -/

/-- The host moves while BUSY = 0 (R200). -/
theorem State.fetch_of_idle {x : Input} {rest : List Input} (hin : s.inbox = x :: rest) (hb : s.busy = false) :
    s.fetch = (fetchInput s.params x, State.platform { s with inbox := rest } x) := by
  have hp : s.popInput = { s with inbox := rest } := by cases x <;> simp [State.popInput, hin, hb]
  rw [State.fetch_host hin hb, hp]

/-- The host moves on its turn (R16, log 1). -/
theorem State.fetch_of_turn {x : Input} {rest : List Input} {sch : List Agent} (hx : x ≠ .poll)
    (hin : s.inbox = x :: rest) (hb : s.busy = true) (hs : s.schedule = .host :: sch) :
    s.fetch =
      (fetchInput s.params x, State.platform { s with inbox := rest, schedule := sch, turns := s.turns + 1 } x) := by
  have hp : s.takeTurn.popInput = { s with inbox := rest, schedule := sch, turns := s.turns + 1 } := by
    rw [State.takeTurn_of_choice hin hb]
    cases x
    case poll => exact absurd rfl hx
    all_goals simp [State.popInput, hin, hs]
  rw [State.fetch_hostTurn hin hb (State.nextAgent_of_schedule hs), hp]

/-- An event of the platform, with BUSY = 0. -/
theorem step_event_of_idle (s : State) {x : Input} {rest : List Input} (hin : s.inbox = x :: rest) (hb : s.busy = false)
    (hx : fetchInput s.params x = .event) : step s = .next (State.platform { s with inbox := rest } x) := by
  apply step_of_fetch_event
  rw [State.fetch_of_idle hin hb, hx]

/-- An event of the platform on the host's turn, with BUSY = 1. -/
theorem step_event_of_turn (s : State) {x : Input} {rest : List Input} {sch : List Agent} (hin : s.inbox = x :: rest)
    (hb : s.busy = true) (hs : s.schedule = .host :: sch) (hx : fetchInput s.params x = .event) :
    step s = .next (State.platform { s with inbox := rest, schedule := sch, turns := s.turns + 1 } x) := by
  have hp : x ≠ .poll := by rintro rfl; cases hx
  apply step_of_fetch_event
  rw [State.fetch_of_turn hp hin hb hs, hx]

/-! ## Platform addresses (R80, R81) -/

/-- The block decodes the 0x4000 bytes from BLOCK_BASE. -/
theorem Params.offsetOf_blockBase (p : Params) {off : BitVec 16} (h : off.toNat < 0x4000) :
    p.offsetOf (p.blockBase + off.toNat) = some off := by
  have hdiv : (p.baseIndex * 0x4000 + off.toNat) / 0x4000 = p.baseIndex := by omega
  have hmod : (p.baseIndex * 0x4000 + off.toNat) % 0x4000 = off.toNat := by omega
  simp only [Params.offsetOf, Params.blockBase, hdiv, hmod, if_true, BitVec.ofNat_toNat, BitVec.setWidth_eq]

theorem Params.offsetOf_eq_none (p : Params) {addr : Nat} (h : addr < p.blockBase ∨ p.blockBase + 0x4000 ≤ addr) :
    p.offsetOf addr = none := by
  unfold Params.blockBase at h
  unfold Params.offsetOf
  rw [if_neg (by omega)]

/-- Settles O9: the offset in the window, no offset outside it, and the event of DRV_READY. -/
theorem platformInputsReachTheBlock : Obligations.PlatformInputsReachTheBlock := by
  intro s bits w data rest sch
  refine ⟨?inside, ?outside, ?ready⟩
  case inside =>
    intro off hoff hm
    have hfetch : fetchInput s.params (.accessAt bits w (s.params.blockBase + off.toNat) data) =
        fetchInput s.params (.access bits (descriptor w off (if w then data else 0))) := by
      simp [fetchInput, fetchAccessAt, Params.offsetOf_blockBase _ hoff]
    unfold step
    obtain hb | hb := Bool.eq_false_or_eq_true s.busy
    · have hs := hm.resolve_left (by simp [hb])
      rw [State.fetch_of_turn (s := { s with inbox := _ }) (by simp) rfl hb hs,
        State.fetch_of_turn (s := { s with inbox := _ }) (by simp) rfl hb hs, hfetch]
      rfl
    · rw [State.fetch_of_idle (s := { s with inbox := _ }) rfl hb, State.fetch_of_idle (s := { s with inbox := _ }) rfl hb,
        hfetch]
      rfl
  case outside =>
    intro addr haddr
    have hx : fetchInput s.params (.accessAt bits w addr data) = .event := by
      simp [fetchInput, fetchAccessAt, Params.offsetOf_eq_none _ haddr]
    exact ⟨fun hb => step_event_of_idle { s with inbox := _ } rfl hb hx,
      fun hb hs => step_event_of_turn { s with inbox := _ } rfl hb hs hx⟩
  case ready =>
    intro ready
    exact ⟨fun hb => step_event_of_idle { s with inbox := _ } rfl hb rfl,
      fun hb hs => step_event_of_turn { s with inbox := _ } rfl hb hs rfl⟩

/-! ## Placed words (log 20, log 21) -/

theorem step_microOp_of_quiet_busy {i : Instr} (hin : s.inbox = []) (hb : s.busy = true)
    (hd : decode (.seq s.phase) = .instr i) : step s = exec i s := by
  rw [step_microOp_of_quiet hin, State.microOp_of_decode hb hd]

/-- A table word of 64 bits that decodes is a descriptor that decodes. -/
theorem decode_of_decodeTableWord {w : Nat} {i : Instr} (h : decodeTableWord 64 w = some i) :
    ∃ d, tableCodeWord 64 w = some (.bus d) ∧ decode (.bus d) = .instr i := by
  unfold decodeTableWord at h
  cases hc : tableCodeWord 64 w with
  | none => simp [hc] at h
  | some c =>
    have hbus : c = .bus (BitVec.ofNat 64 w) := by
      unfold tableCodeWord at hc
      rw [if_neg (by omega)] at hc
      split_ifs at hc
      cases hc
      rfl
    subst hbus
    refine ⟨_, rfl, ?_⟩
    cases hd : decode (.bus (BitVec.ofNat 64 w)) with
    | refuse e => simp [hc, hd] at h
    | instr a => simpa [hc, hd] using h

theorem tableCodeWord_seq (c : BitVec 5) : tableCodeWord 8 c.toNat = some (.seq c) := by
  simp [tableCodeWord, c.isLt]

theorem step_place_bus {d : Descriptor} {i : Instr} (hd : decode (.bus d) = .instr i) :
    step (s.place (.bus d)) = exec i { s with turns := if s.busy then s.turns + 1 else s.turns } := by
  obtain hb | hb := Bool.eq_false_or_eq_true s.busy
  · have hs : (s.place (.bus d)).schedule = .host :: s.schedule := by simp [State.place, hb]
    rw [step_access_of_hostTurn (s := s.place (.bus d)) (rest := s.inbox) hb rfl (State.nextAgent_of_schedule hs) hd, hs]
    simp [State.place, hb]
  · rw [step_access_of_idle (s := s.place (.bus d)) (rest := s.inbox) hb rfl hd]
    simp [State.place, hb]

theorem step_place_seq {c : BitVec 5} (hc : c ≠ 0) :
    step (s.place (.seq c)) =
      exec (decodeSeq c) { s with phase := c, busy := true, turns := if s.inbox = [] then s.turns else s.turns + 1 } := by
  have hp : s.place (.seq c) =
      { s with phase := c, busy := true, schedule := if s.inbox.isEmpty then s.schedule else .sequencer :: s.schedule } :=
    if_neg hc
  have hb : (s.place (.seq c)).busy = true := by rw [hp]
  have hd : decode (.seq (s.place (.seq c)).phase) = .instr (decodeSeq c) := by rw [hp]; rfl
  have hi : (s.place (.seq c)).inbox = s.inbox := by rw [hp]
  cases hin : s.inbox with
  | nil =>
    rw [step_microOp_of_quiet_busy (hi.trans hin) hb hd, hp]
    simp [hin]
  | cons x rest =>
    have hs : (s.place (.seq c)).schedule = .sequencer :: s.schedule := by simp [hp, hin]
    rw [step_microOp_of_sequencerTurn hb (hi.trans hin) (State.nextAgent_of_schedule hs) hd, hp]
    simp [hin]

/-- Settles O7: the placed descriptor is the host's next input on its turn, the placed code the sequencer's on its turn. -/
theorem placedWordRunsNext : Obligations.PlacedWordRunsNext := by
  refine ⟨?bus, ?seq, ?idle⟩
  case bus =>
    intro s w i h
    obtain ⟨d, hc, hd⟩ := decode_of_decodeTableWord h
    rw [State.withFetchWord, hc]
    exact step_place_bus hd
  case seq =>
    intro s c hc
    rw [State.withFetchWord, tableCodeWord_seq]
    exact step_place_seq hc
  case idle =>
    intro s
    have hp : s.withFetchWord 8 0 = { s with phase := 0, busy := false, inbox := [] } := rfl
    rw [hp, step_microOp_of_quiet rfl]
    rfl

/-! ## RST (R350 to R353) -/

theorem Dir.line_ofVal (b : Bool) : (Dir.ofVal b).line = if b then .output else .input := by cases b <;> rfl

theorem Level.line_ofVal (b : Bool) : (Level.ofVal b).line = if b then .high else .low := by cases b <;> rfl

theorem State.drive_of_setDir {r : GpioRequest} (hk : r.kind = .setDir) (he : s.nextAnswer.err = false) :
    s.drive r = (s.takeAnswer.setDir r.pin (Dir.ofVal r.val).line).record (.setDir r.pin (Dir.ofVal r.val)) := by
  simp [State.drive, State.serve, hk, he]

theorem State.drive_of_write {r : GpioRequest} (hk : r.kind = .write) (he : s.nextAnswer.err = false) :
    s.drive r = (s.takeAnswer.setLevel r.pin (Level.ofVal r.val).line).record (.write r.pin (Level.ofVal r.val)) := by
  simp [State.drive, State.serve, hk, he]

theorem State.drive_of_read {r : GpioRequest} (hk : r.kind = .read) (he : s.nextAnswer.err = false) :
    s.drive r = s.takeAnswer.record (.read r.pin s.nextAnswer.lvl) := by
  simp [State.drive, State.serve, respond, hk, he]

@[simp] theorem State.drive_draws (s : State) (r : GpioRequest) : (s.drive r).draws = s.draws + 1 := by
  obtain ⟨-, e⟩ | ⟨-, d, e⟩ | ⟨-, l, e⟩ | ⟨-, l, e⟩ := s.drive_cases r <;> rw [e] <;> rfl

/-- What the pin driver does with a request (R46, R47, R320): it touches the request's pin only; a failed one leaves the level unknown
and no event, an acknowledged one its effect and its event. -/
theorem State.drive_effect (r : GpioRequest) (hw : s.lines.wf = true) :
    (∀ q, q ≠ r.pin → (s.drive r).dir q = s.dir q ∧ (s.drive r).level q = s.level q) ∧
    (s.nextAnswer.err = true → (s.drive r).dir r.pin = s.dir r.pin ∧ (s.drive r).level r.pin = .unknown ∧
      (s.drive r).trace = s.trace) ∧
    (s.nextAnswer.err = false → r.kind = .setDir →
      (s.drive r).dir r.pin = (if r.val then .output else .input) ∧ (s.drive r).level r.pin = s.level r.pin ∧
      (s.drive r).trace = s.trace ++ [.setDir r.pin (if r.val then .output else .input)]) ∧
    (s.nextAnswer.err = false → r.kind = .write →
      (s.drive r).dir r.pin = s.dir r.pin ∧ (s.drive r).level r.pin = (if r.val then .high else .low) ∧
      (s.drive r).trace = s.trace ++ [.write r.pin (if r.val then .high else .low)]) ∧
    (s.nextAnswer.err = false → r.kind = .read →
      (s.drive r).lines = s.lines ∧ (s.drive r).trace = s.trace ++ [.read r.pin s.nextAnswer.lvl]) := by
  have hw' : s.takeAnswer.lines.wf = true := hw
  refine ⟨?other, ?failed, ?setDir, ?write, ?read⟩
  case other =>
    intro q hq
    obtain ⟨-, e⟩ | ⟨-, d, e⟩ | ⟨-, l, e⟩ | ⟨-, l, e⟩ := s.drive_cases r <;> rw [e]
    · exact ⟨State.dir_setLevel _ _ hw' q, (State.level_setLevel _ _ hw' q).trans (if_neg hq.symm)⟩
    · exact ⟨(State.dir_setDir _ _ hw' q).trans (if_neg hq.symm), State.level_setDir _ _ hw' q⟩
    · exact ⟨State.dir_setLevel _ _ hw' q, (State.level_setLevel _ _ hw' q).trans (if_neg hq.symm)⟩
    · exact ⟨rfl, rfl⟩
  case failed =>
    intro he
    rw [State.drive_err r he]
    exact ⟨State.dir_setLevel _ _ hw' _, (State.level_setLevel _ _ hw' _).trans (if_pos rfl), rfl⟩
  case setDir =>
    intro he hk
    rw [State.drive_of_setDir hk he, ← Dir.line_ofVal]
    exact ⟨(State.dir_setDir _ _ hw' _).trans (if_pos rfl), State.level_setDir _ _ hw' _, rfl⟩
  case write =>
    intro he hk
    rw [State.drive_of_write hk he, ← Level.line_ofVal]
    exact ⟨State.dir_setLevel _ _ hw' _, (State.level_setLevel _ _ hw' _).trans (if_pos rfl), rfl⟩
  case read =>
    intro he hk
    rw [State.drive_of_read hk he]
    exact ⟨rfl, rfl⟩

/-- With BUSY = 0 no request is outstanding (log 16). -/
theorem State.resetInFlight_of_idle (hb : s.busy = false) : s.resetInFlight = s.blockReset := by
  simp [State.resetInFlight, hb]

theorem State.resetInFlight_of_no_request (hr : s.request = none) : s.resetInFlight = s.blockReset := by
  cases hb : s.busy <;> simp [State.resetInFlight, hb, hr]

theorem State.resetInFlight_of_request {r : GpioRequest} (hb : s.busy = true) (hr : s.request = some r) :
    s.resetInFlight = (s.drive r).blockReset := by
  simp [State.resetInFlight, hb, hr]

theorem State.platform_reset_of_idle (hb : s.busy = false) (b : Bool) : s.platform (.reset b) = s.blockReset := by
  cases b
  · rfl
  · exact State.resetInFlight_of_idle hb

/-- After RST, with the host away, the block idles. -/
theorem step_blockReset_quiet (s : State) : step { s.blockReset with inbox := [] } = .next { s.blockReset with inbox := [] } := by
  rw [step_microOp_of_quiet rfl]
  rfl

/-- STATUS is 0 when its three fields are (R167). -/
theorem State.status_eq_zero (hc : s.fcode = 0) (hf : s.fault = false) (hb : s.busy = false) : s.status = 0 := by
  rw [State.status, hc, hf, hb]
  decide

theorem State.blockReset_status (s : State) : s.blockReset.status = 0 := State.status_eq_zero rfl rfl rfl

/-- Settles O40: with BUSY = 0 either form of the input is a plain block reset. -/
theorem resetGivesTheSpecValues : Obligations.ResetGivesTheSpecValues := by
  refine ⟨?running, ?powerUp⟩
  case running =>
    intro s b rest hin hb
    have hr := State.platform_reset_of_idle (s := { s with inbox := rest }) hb b
    refine ⟨_, (step_event_of_idle s hin hb rfl).trans (congrArg _ hr), ?_⟩
    exact ⟨rfl, rfl, rfl, rfl, rfl, rfl, State.blockReset_status _, fun k => ⟨rfl, rfl⟩, rfl, rfl, rfl, rfl, rfl, rfl, rfl⟩
  case powerUp =>
    exact ⟨rfl, rfl, rfl, rfl, rfl, rfl, State.status_eq_zero rfl rfl rfl, fun k => ⟨rfl, rfl⟩, rfl, rfl, rfl, fun p => ⟨rfl, rfl⟩⟩

/-- RST is the block reset of the state as it is, or as the request in flight leaves it (R352, log 16). -/
theorem State.platform_reset (hb : s.busy = true) (b : Bool) :
    ∃ v : State, s.platform (.reset b) = v.blockReset ∧ ((b = false ∨ s.request = none) → v = s) ∧
      (b = true → ∀ r, s.request = some r → v = s.drive r) ∧ v.drvReady = s.drvReady ∧ v.params = s.params := by
  cases b with
  | false => exact ⟨s, rfl, fun _ => rfl, fun h => absurd h (by simp), rfl, rfl⟩
  | true =>
    cases hr : s.request with
    | none => exact ⟨s, State.resetInFlight_of_no_request hr, fun _ => rfl, fun _ r h => absurd h (by simp), rfl, rfl⟩
    | some r =>
      refine ⟨s.drive r, State.resetInFlight_of_request hb hr, fun h => absurd h (by simp), ?_, by simp, by simp⟩
      intro _ r' h
      rw [Option.some.inj h]

/-- Settles O41: the values are those of the block reset; the lines and the trace are those of the state it is applied to. -/
theorem resetStopsARunningCommand : Obligations.ResetStopsARunningCommand := by
  intro s b rest sch hw hin hb hs
  obtain ⟨v, hv, hplain, hflight, hready, hparams⟩ :=
    State.platform_reset (s := { s with inbox := rest, schedule := sch, turns := s.turns + 1 }) hb b
  refine ⟨_, (step_event_of_turn s hin hb hs rfl).trans (congrArg _ hv), rfl, rfl, rfl, rfl, rfl, rfl,
    v.blockReset_status, rfl, rfl, rfl, fun k => ⟨rfl, rfl⟩, rfl, rfl, rfl, hready, hparams, ?plain, ?flight, step_blockReset_quiet v⟩
  case plain =>
    intro h
    obtain rfl := hplain h
    exact ⟨rfl, rfl, rfl⟩
  case flight =>
    intro h r hr
    obtain rfl := hflight h r hr
    exact ⟨State.drive_draws _ r, State.drive_effect r hw⟩

end

end Sys2Proof.Machine
end

section
/-! A whole XFER with the host away and no driver error (42_transfer.md R242 to R245): its micro-operations one by one, one bit, one byte,
the run; and O53, O57, O58. -/

namespace Sys2Proof.Machine

/-! ## Runs -/

section
variable {s t : State}

theorem runSteps_succ {n : Nat} (h : step s = .next t) : runSteps (n + 1) s = runSteps n t := by
  simp [runSteps, h]

theorem runSteps_add {m : Nat} (n : Nat) (h : runSteps m s = .next t) : runSteps (m + n) s = runSteps n t := by
  induction m generalizing s with
  | zero => cases h; rw [Nat.zero_add]
  | succ m ih =>
    rw [Nat.succ_add]
    cases hs : step s with
    | next u =>
      rw [runSteps_succ hs] at h ⊢
      exact ih h
    | fault r => simp [runSteps, hs] at h
    | refused r => simp [runSteps, hs] at h

theorem runSteps_add_one {m : Nat} {u : State} (h : runSteps m s = .next t) (hu : step t = .next u) :
    runSteps (m + 1) s = .next u := by
  rw [runSteps_add 1 h, runSteps_succ hu, runSteps]

theorem State.inv_of_runSteps {n : Nat} (h : s.Inv) (hr : runSteps n s = .next t) : t.Inv := by
  induction n generalizing s with
  | zero => cases hr; exact h
  | succ n ih =>
    cases hs : step s with
    | next u => exact ih (h.step hs) (runSteps_succ hs ▸ hr)
    | fault r => simp [runSteps, hs] at hr
    | refused r => simp [runSteps, hs] at hr

end

/-! ## The micro-operations of XFER, the host away and each request acknowledged -/

/-- `s` after an acknowledged `GpioWrite(pin, l)` (R46, R47). -/
def State.written (pin : Word) (l : Level) (s : State) : State := (s.takeAnswer.setLevel pin l.line).record (.write pin l)

/-- `s` after X_SAMPLE has read `l` (R237). -/
def State.sampledIn (l : Level) (s : State) : State :=
  State.goto Phase.xHold2 { s.takeAnswer.record (.read s.port.miso l) with insr := shiftIn s.insr l }

/-- `s` after X_SHIFT (R239). -/
def State.shifted (s : State) : State :=
  State.goto (if s.bitn + 1 = 8 then Phase.xStore else Phase.xClkLo)
    { s with outsr := shiftOut s.outsr, bitn := s.bitn + 1 }

/-- `s` after X_STORE (R240). -/
def State.storedByte (s : State) : State :=
  State.goto (if (s.j + 1).toNat = s.nlen.toNat then Phase.xCsHi else Phase.xLoad)
    { s with rx := s.rx.store s.j.toNat s.insr, j := s.j + 1 }

section
variable {s : State} (hq : s.inbox = []) (hb : s.busy = true)
include hq hb

theorem step_eq_exec_decodeSeq {p : BitVec 5} (hp : s.phase = p) : step s = exec (decodeSeq p) s :=
  step_microOp_of_quiet_busy hq hb (by rw [hp]; rfl)

theorem step_of_ackedWrite {p : BitVec 5} {pin : Word} {l : Level} (hp : s.phase = p)
    (hr : s.requestOf (decodeSeq p) = some (gpioWrite pin l)) (he : s.nextAnswer.err = false) :
    step s = .next (State.afterAck (respond (gpioWrite pin l) s.nextAnswer) (s.written pin l) (decodeSeq p)) := by
  rw [step_eq_exec_decodeSeq hq hb hp, exec_of_requestOf hr, State.gpio_ack _ _ he, State.drive_write _ _ he]
  rfl

theorem step_xCsLo (hp : s.phase = Phase.xCsLo) (he : s.nextAnswer.err = false) :
    step s = .next ((s.written s.port.cs .low).goto (if s.nlen = 0 then Phase.xCsHi else Phase.xLoad)) :=
  step_of_ackedWrite hq hb hp rfl he

theorem step_xClkLo (hp : s.phase = Phase.xClkLo) (he : s.nextAnswer.err = false) :
    step s = .next ((s.written s.port.clk .low).goto Phase.xMosi) :=
  step_of_ackedWrite hq hb hp rfl he

theorem step_xMosi (hp : s.phase = Phase.xMosi) (he : s.nextAnswer.err = false) :
    step s = .next ((s.written s.port.mosi (lvl (outBit s.outsr))).goto Phase.xHold1) :=
  step_of_ackedWrite hq hb hp rfl he

theorem step_xClkHi (hp : s.phase = Phase.xClkHi) (he : s.nextAnswer.err = false) :
    step s = .next ((s.written s.port.clk .high).goto Phase.xSample) :=
  step_of_ackedWrite hq hb hp rfl he

theorem step_xCsHi (hp : s.phase = Phase.xCsHi) (he : s.nextAnswer.err = false) :
    step s = .next ((s.written s.port.cs .high).clearBusy.goto Phase.idle) :=
  step_of_ackedWrite hq hb hp rfl he

theorem step_xSample (hp : s.phase = Phase.xSample) (he : s.nextAnswer.err = false) :
    step s = .next (s.sampledIn s.nextAnswer.lvl) := by
  have hr : s.requestOf (decodeSeq Phase.xSample) = some (gpioRead s.port.miso) := rfl
  rw [step_eq_exec_decodeSeq hq hb hp, exec_of_requestOf hr, State.gpio_ack _ _ he, State.drive_read _ he]
  change Host.Outcome.next (State.goto Phase.xHold2 { s.takeAnswer.record _ with insr := shiftIn s.insr _ }) = _
  rw [respond_read _ _ he]
  rfl

theorem step_xHold1 (hp : s.phase = Phase.xHold1) : step s = .next (s.holdHalf Phase.xClkHi) :=
  step_eq_exec_decodeSeq hq hb hp

theorem step_xHold2 (hp : s.phase = Phase.xHold2) : step s = .next (s.holdHalf Phase.xShift) :=
  step_eq_exec_decodeSeq hq hb hp

theorem step_xLoad (hp : s.phase = Phase.xLoad) :
    step s = .next (State.goto Phase.xClkLo { s with outsr := s.txByte, insr := 0, bitn := 0 }) :=
  step_eq_exec_decodeSeq hq hb hp

theorem step_xShift (hp : s.phase = Phase.xShift) : step s = .next s.shifted :=
  step_eq_exec_decodeSeq hq hb hp

theorem step_xStore (hp : s.phase = Phase.xStore) : step s = .next s.storedByte :=
  step_eq_exec_decodeSeq hq hb hp

end

/-! ## One bit: seven micro-operations -/

/-- The first four micro-operations of a bit: the state at X_SAMPLE (R233 to R236). -/
def State.toSample (s : State) : State :=
  let u := (s.written s.port.clk .low).goto Phase.xMosi
  let v := (u.written s.port.mosi (lvl (outBit s.outsr))).goto Phase.xHold1
  ((v.holdHalf Phase.xClkHi).written s.port.clk .high).goto Phase.xSample

/-- All seven (R233 to R239), when `l` is read. -/
def State.afterBit (l : Level) (s : State) : State := ((s.toSample.sampledIn l).holdHalf Phase.xShift).shifted

section
variable (s : State) (l : Level)

@[simp] theorem State.goto_answerAt (p : BitVec 5) (i : Nat) : (s.goto p).answerAt i = s.answerAt i := by
  simp [State.answerAt]

@[simp] theorem State.holdHalf_answerAt (p : BitVec 5) (i : Nat) : (s.holdHalf p).answerAt i = s.answerAt i := by
  simp [State.answerAt]

@[simp] theorem State.written_answerAt (pin : Word) (i : Nat) : (s.written pin l).answerAt i = s.answerAt (i + 1) :=
  s.answerAt_takeAnswer i

@[simp] theorem State.sampledIn_answerAt (i : Nat) : (s.sampledIn l).answerAt i = s.answerAt (i + 1) :=
  s.answerAt_takeAnswer i

@[simp] theorem State.shifted_answerAt (i : Nat) : s.shifted.answerAt i = s.answerAt i := rfl

@[simp] theorem State.toSample_inbox : s.toSample.inbox = s.inbox := by simp [State.toSample, State.written]
@[simp] theorem State.toSample_busy : s.toSample.busy = s.busy := by simp [State.toSample, State.written]
@[simp] theorem State.toSample_phase : s.toSample.phase = Phase.xSample := by simp [State.toSample]
@[simp] theorem State.toSample_answerAt (i : Nat) : s.toSample.answerAt i = s.answerAt (i + 3) := by
  simp [State.toSample]

theorem State.toSample_trace : s.toSample.trace = s.trace ++ [.write s.port.clk .low,
    .write s.port.mosi (lvl (outBit s.outsr)), .hold s.half.toNat, .write s.port.clk .high] := by
  simp [State.toSample, State.written]

theorem State.written_lines_wf (pin : Word) (hw : s.lines.wf = true) : (s.written pin l).lines.wf = true :=
  Lines.wf_store _ _ hw

theorem State.written_level (pin : Word) (hw : s.lines.wf = true) (q : Word) :
    (s.written pin l).level q = if pin = q then l.line else s.level q :=
  State.level_setLevel (s := s.takeAnswer) pin l.line hw q

@[simp] theorem State.goto_level (p : BitVec 5) (q : Word) : (s.goto p).level q = s.level q := by
  simp [State.level]

@[simp] theorem State.holdHalf_level (p : BitVec 5) (q : Word) : (s.holdHalf p).level q = s.level q := by
  simp [State.level]

/-- At X_SAMPLE mosi has the level of the bit sent (R234): the rising edge after it is on another pin. -/
theorem State.toSample_level_mosi (hw : s.lines.wf = true) (hne : s.port.clk ≠ s.port.mosi) :
    s.toSample.level s.port.mosi = (lvl (outBit s.outsr)).line := by
  have hlow := s.written_lines_wf .low s.port.clk hw
  have hmosi := ((s.written s.port.clk .low).goto Phase.xMosi).written_lines_wf (lvl (outBit s.outsr)) s.port.mosi hlow
  rw [State.toSample, State.goto_level, State.written_level _ _ _ (by simpa using hmosi), if_neg hne, State.holdHalf_level,
    State.goto_level, State.written_level _ _ _ (by simpa using hlow), if_pos rfl]

/-! What a bit leaves, and what it does to the working registers and the trace. -/

@[simp] theorem State.afterBit_inbox : (s.afterBit l).inbox = s.inbox := by
  simp [State.afterBit, State.shifted, State.sampledIn]
@[simp] theorem State.afterBit_busy : (s.afterBit l).busy = s.busy := by
  simp [State.afterBit, State.shifted, State.sampledIn]
@[simp] theorem State.afterBit_port : (s.afterBit l).port = s.port := by
  simp [State.afterBit, State.shifted, State.sampledIn, State.toSample, State.written]
@[simp] theorem State.afterBit_half : (s.afterBit l).half = s.half := by
  simp [State.afterBit, State.shifted, State.sampledIn, State.toSample, State.written]
@[simp] theorem State.afterBit_nlen : (s.afterBit l).nlen = s.nlen := by
  simp [State.afterBit, State.shifted, State.sampledIn, State.toSample, State.written]
@[simp] theorem State.afterBit_tx : (s.afterBit l).tx = s.tx := by
  simp [State.afterBit, State.shifted, State.sampledIn, State.toSample, State.written]
@[simp] theorem State.afterBit_rx : (s.afterBit l).rx = s.rx := by
  simp [State.afterBit, State.shifted, State.sampledIn, State.toSample, State.written]
@[simp] theorem State.afterBit_j : (s.afterBit l).j = s.j := by
  simp [State.afterBit, State.shifted, State.sampledIn, State.toSample, State.written]
@[simp] theorem State.afterBit_answerAt (i : Nat) : (s.afterBit l).answerAt i = s.answerAt (i + 4) := by
  simp [State.afterBit]
@[simp] theorem State.afterBit_insr : (s.afterBit l).insr = shiftIn s.insr l := by
  simp [State.afterBit, State.shifted, State.sampledIn, State.toSample, State.written]
@[simp] theorem State.afterBit_outsr : (s.afterBit l).outsr = shiftOut s.outsr := by
  simp [State.afterBit, State.shifted, State.sampledIn, State.toSample, State.written]
@[simp] theorem State.afterBit_bitn : (s.afterBit l).bitn = s.bitn + 1 := by
  simp [State.afterBit, State.shifted, State.sampledIn, State.toSample, State.written]
theorem State.afterBit_phase : (s.afterBit l).phase = if s.bitn + 1 = 8 then Phase.xStore else Phase.xClkLo := by
  simp [State.afterBit, State.shifted, State.sampledIn, State.toSample, State.written]
theorem State.afterBit_trace :
    (s.afterBit l).trace = s.trace ++ bitEvents s.port s.half.toNat (outBit s.outsr) l := by
  simp [State.afterBit, State.shifted, State.sampledIn, State.toSample, State.written, bitEvents]

end

section
variable {s : State} (hq : s.inbox = []) (hb : s.busy = true) (hp : s.phase = Phase.xClkLo)
  (he : ∀ i < 4, (s.answerAt i).err = false)
include hq hb hp he

theorem runSteps_toSample : runSteps 4 s = .next s.toSample := by
  have h0 : s.nextAnswer.err = false := he 0 (by omega)
  have h1 : (s.answerAt 1).err = false := he 1 (by omega)
  have h2 : (s.answerAt 2).err = false := he 2 (by omega)
  rw [runSteps_succ (step_xClkLo hq hb hp h0)]
  rw [runSteps_succ (step_xMosi (by simpa [State.written] using hq) (by simpa [State.written] using hb) rfl
    (by simpa [State.nextAnswer] using h1))]
  rw [runSteps_succ (step_xHold1 (by simpa [State.written] using hq) (by simpa [State.written] using hb) rfl)]
  rw [runSteps_succ (step_xClkHi (by simpa [State.written] using hq) (by simpa [State.written] using hb) (by simp)
    (by simpa [State.nextAnswer] using h2))]
  simp [runSteps, State.toSample, State.written]

theorem runSteps_afterBit : runSteps 7 s = .next (s.afterBit (s.answerAt 3).lvl) := by
  have h3 : (s.toSample).nextAnswer = s.answerAt 3 := by simp [State.nextAnswer]
  rw [runSteps_add 3 (runSteps_toSample hq hb hp he)]
  rw [runSteps_succ (step_xSample (by simpa using hq) (by simpa using hb) (by simp) (by rw [h3]; exact he 3 (by omega))), h3]
  rw [runSteps_succ (step_xHold2 (by simpa [State.sampledIn] using hq) (by simpa [State.sampledIn] using hb) rfl)]
  rw [runSteps_succ (step_xShift (by simpa [State.sampledIn] using hq) (by simpa [State.sampledIn] using hb) (by simp))]
  rfl

end

/-! ## Bytes and bits -/

/-- INSR after the levels of the first `i` reads are shifted in (R237). -/
def shiftedIn (ls : Nat → Level) : Nat → Byte
  | 0 => 0
  | i + 1 => shiftIn (shiftedIn ls i) (ls i)

theorem outBit_shiftLeft (b : Byte) {i : Nat} (hi : i < 8) : outBit (b <<< i) = serialBit b i := by
  apply BitVec.eq_of_getLsbD_eq
  intro k hk
  rw [outBit, serialBit]
  obtain rfl | hk0 := Nat.eq_zero_or_pos k
  · simp [show ¬ 7 < i by omega, BitVec.getLsbD_eq_getElem (show 7 - i < 8 by omega)]
  · have hr : (1#8).getLsbD k = false := by simp [BitVec.getLsbD_one, hk0.ne']
    have hl : (b <<< i &&& 0x80#8).getLsbD (7 + k) = false := BitVec.getLsbD_of_ge _ _ (by omega)
    simp only [BitVec.getLsbD_ushiftRight, BitVec.getLsbD_and, hl] at *
    simp [hr]

/-- The bit on mosi after `i` shifts is bit position `i` in serial order (R239, R243). -/
theorem outBit_iterate_shiftOut (b : Byte) {i : Nat} (hi : i < 8) : outBit (shiftOut^[i] b) = serialBit b i := by
  have hs : ∀ i, shiftOut^[i] b = b <<< i := by
    intro i
    induction i with
    | zero => simp
    | succ i ih => rw [Function.iterate_succ_apply', ih, shiftOut, ← BitVec.shiftLeft_add]
  rw [hs, outBit_shiftLeft b hi]

/-- Shifting in a byte's bit restores what shifting it out dropped. -/
theorem shiftIn_lvl_and_one (x : Byte) : shiftIn (x >>> 1) (lvl (x &&& 1)) = x := by
  revert x; decide

/-- Eight reads of the bits of a byte make the byte (R245, R250). -/
theorem shiftedIn_serialBit (b : Byte) (ls : Nat → Level) (h : ∀ i < 8, ls i = lvl (serialBit b i)) : shiftedIn ls 8 = b := by
  have hs : ∀ i ≤ 8, shiftedIn ls i = b >>> (8 - i) := by
    intro i hi
    induction i with
    | zero => exact (BitVec.ushiftRight_eq_zero (le_refl 8)).symm
    | succ i ih =>
      have hsplit : b >>> (8 - i) = (b >>> (7 - i)) >>> 1 := by
        rw [← BitVec.shiftRight_add]; congr 1; omega
      rw [shiftedIn, ih (by omega), h i (by omega), hsplit, serialBit, shiftIn_lvl_and_one]
      congr 1; omega
  simpa using hs 8 (le_refl 8)

/-- Eight reads of one level make 0xFF or 0x00 (R245). -/
theorem shiftedIn_const (l : Level) (ls : Nat → Level) (h : ∀ i < 8, ls i = l) :
    shiftedIn ls 8 = if l = .high then 0xFF else 0x00 := by
  have h8 : shiftedIn ls 8 = shiftedIn (fun _ => l) 8 := by simp [shiftedIn, h]
  rw [h8]
  cases l <;> decide

/-! ## The run, byte by byte -/

/-- Byte `j` of the XFER that starts in `s`. -/
def State.sentByte (s : State) (j : Nat) : Byte := (s.tx.read j).getD 0

/-- The six events of bit `i` of byte `j` (R242). -/
def State.sentBit (s : State) (j i : Nat) : List Event :=
  bitEvents s.port s.half.toNat (serialBit (s.sentByte j) i) (s.sampled j i)

/-- The events up to the end of byte `j - 1` (R242). -/
def State.sentBytes (s : State) (j : Nat) : List Event :=
  .write s.port.cs .low :: (List.range j).flatMap fun k => (List.range 8).flatMap (s.sentBit k)

theorem State.sentBytes_succ (s : State) (j : Nat) :
    s.sentBytes (j + 1) = s.sentBytes j ++ (List.range 8).flatMap (s.sentBit j) := by
  rw [State.sentBytes, State.sentBytes, List.range_succ (n := j), List.flatMap_append, List.flatMap_singleton,
    List.cons_append]

/-- `t` is reached in the XFER that starts in `s`, after `m` requests; `j` bytes are stored, the trace has grown by `es`. -/
structure State.XferAt (s : State) (m j : Nat) (es : List Event) (t : State) : Prop where
  inv : t.Inv
  busy : t.busy = true
  quiet : t.inbox = []
  port : t.port = s.port
  half : t.half = s.half
  nlen : t.nlen = s.nlen
  tx : t.tx = s.tx
  answers : ∀ i, t.answerAt i = s.answerAt (m + i)
  index : t.j.toNat = j
  received : ∀ k < j, t.rx.read k = some (shiftedIn (s.sampled k) 8)
  trace : t.trace = s.trace ++ es

/-- Before byte `j` of `n`: at X_LOAD, or at X_CS_HI after the last. -/
structure State.AtByte (s : State) (n j : Nat) (t : State) : Prop extends s.XferAt (32 * j + 1) j (s.sentBytes j) t where
  phase : t.phase = if j = n then Phase.xCsHi else Phase.xLoad

/-- Before bit `i` of byte `j`: at X_CLK_LO, or at X_STORE after the eighth. -/
structure State.AtBit (s : State) (j i : Nat) (t : State) : Prop extends
    s.XferAt (32 * j + 4 * i + 1) j (s.sentBytes j ++ (List.range i).flatMap (s.sentBit j)) t where
  phase : t.phase = if i = 8 then Phase.xStore else Phase.xClkLo
  count : t.bitn.toNat = i
  out : t.outsr = shiftOut^[i] (s.sentByte j)
  shifted : t.insr = shiftedIn (s.sampled j) i

section
variable {s t : State} {n j i : Nat}

/-- X_CS_LO (R231). -/
theorem State.XferStart.atByte_zero (h : s.XferStart n) (he : s.nextAnswer.err = false) :
    ∃ t, step s = .next t ∧ s.AtByte n 0 t := by
  have hst := step_xCsLo h.quiet h.busy h.phase he
  have hn : s.nlen = 0 ↔ 0 = n := by
    rw [← h.len]
    constructor
    · intro e; rw [e]; rfl
    · intro e; exact BitVec.eq_of_toNat_eq e.symm
  exact ⟨_, hst, {
    inv := h.inv.step hst
    busy := by simpa [State.written] using h.busy
    quiet := by simpa [State.written, State.HostQuiet] using h.quiet
    port := by simp [State.written]
    half := by simp [State.written]
    nlen := by simp [State.written]
    tx := by simp [State.written]
    answers := fun k => by simp [Nat.add_comm]
    index := by simp [State.written, h.inv.xfer_start h.busy h.phase]
    received := fun k hk => absurd hk (by omega)
    trace := by simp [State.written, State.sentBytes]
    phase := by simp only [State.goto_phase, hn] }⟩

/-- Every byte to be sent is valid (R308). -/
theorem State.XferStart.read_tx (h : s.XferStart n) (hj : j < n) : s.tx.read j = some (s.sentByte j) := by
  obtain ⟨-, -, -, hvalid, -⟩ := h.inv.xfer_inputs h.busy (by rw [h.phase]; decide)
  rw [Memory.validBelow_iff, h.len] at hvalid
  obtain ⟨b, hb⟩ := (Memory.valid_iff _ _).mp (hvalid j hj)
  rw [State.sentByte, hb]
  rfl

/-- X_LOAD (R232). -/
theorem State.AtByte.atBit_zero (h : s.AtByte n j t) (h0 : s.XferStart n) (hj : j < n) :
    ∃ u, step t = .next u ∧ s.AtBit j 0 u := by
  have hbyte : t.txByte = s.sentByte j := by
    rw [State.txByte, h.tx, h.index, h0.read_tx hj]
    rfl
  have hst := step_xLoad h.quiet h.busy (h.phase.trans (if_neg (by omega)))
  exact ⟨_, hst, {
    inv := h.inv.step hst
    busy := h.busy
    quiet := h.quiet
    port := h.port
    half := h.half
    nlen := h.nlen
    tx := h.tx
    answers := h.answers
    index := h.index
    received := h.received
    trace := by simpa using h.trace
    phase := rfl
    count := rfl
    out := hbyte
    shifted := rfl }⟩

/-- The seven micro-operations of a bit. -/
theorem State.AtBit.next (h : s.AtBit j i t) (hi : i < 8) (he : ∀ k < 4, (s.answerAt (32 * j + 4 * i + 1 + k)).err = false) :
    ∃ u, runSteps 7 t = .next u ∧ s.AtBit j (i + 1) u := by
  have hrun := runSteps_afterBit h.quiet h.busy (h.phase.trans (if_neg (by omega))) fun k hk => h.answers k ▸ he k hk
  have hlvl : (t.answerAt 3).lvl = s.sampled j i := by
    rw [h.answers, State.sampled]
    congr 2; omega
  have hcount : (t.bitn + 1).toNat = i + 1 := by have := h.count; bv_omega
  have hlast : t.bitn + 1 = 8 ↔ i + 1 = 8 := by rw [← BitVec.toNat_inj, hcount]; rfl
  rw [hlvl] at hrun
  exact ⟨_, hrun, {
    inv := State.inv_of_runSteps h.inv hrun
    busy := by simpa using h.busy
    quiet := by simpa using h.quiet
    port := by simpa using h.port
    half := by simpa using h.half
    nlen := by simpa using h.nlen
    tx := by simpa using h.tx
    answers := fun k => by
      rw [State.afterBit_answerAt, h.answers]
      congr 1; omega
    index := by simpa using h.index
    received := by simpa using h.received
    trace := by
      rw [State.afterBit_trace, h.trace, h.port, h.half, h.out, outBit_iterate_shiftOut _ hi, List.range_succ,
        List.flatMap_append, List.flatMap_singleton, State.sentBit, List.append_assoc, List.append_assoc]
    phase := by simp only [State.afterBit_phase, hlast]
    count := by rw [State.afterBit_bitn, hcount]
    out := by rw [State.afterBit_outsr, h.out, Function.iterate_succ_apply']
    shifted := by rw [State.afterBit_insr, h.shifted, shiftedIn] }⟩

/-- X_STORE (R240). -/
theorem State.AtBit.atByte_succ (h : s.AtBit j 8 t) (hj : j < n) (hn : s.nlen.toNat = n) :
    ∃ u, step t = .next u ∧ s.AtByte n (j + 1) u := by
  have hphase : t.phase = Phase.xStore := h.phase
  have hst := step_xStore h.quiet h.busy hphase
  obtain ⟨-, hlen, -⟩ := h.inv.xfer_inputs h.busy (by rw [hphase]; decide)
  have hnlen : t.nlen.toNat = n := by rw [h.nlen, hn]
  have hindex : (t.j + 1).toNat = j + 1 := by
    rw [toNat_succ_of_lt_bufBytes (n := t.nlen) (by rw [h.index]; omega) hlen, h.index]
  exact ⟨_, hst, {
    inv := h.inv.step hst
    busy := h.busy
    quiet := h.quiet
    port := h.port
    half := h.half
    nlen := h.nlen
    tx := h.tx
    answers := h.answers
    index := hindex
    received := fun k hk => by
      change (t.rx.store t.j.toNat t.insr).read k = _
      rw [Memory.read_store, h.index, h.shifted]
      split_ifs with hkj
      · rw [hkj]
      · exact h.received k (by omega)
    trace := by
      rw [State.sentBytes_succ]
      exact h.trace
    phase := by
      change (if (t.j + 1).toNat = t.nlen.toNat then _ else _) = _
      rw [hindex, hnlen] }⟩

/-- The state before each bit of a byte. -/
theorem State.AtByte.atBit (h : s.AtByte n j t) (h0 : s.XferStart n) (he : s.NoDriverError (2 + 32 * n)) (hj : j < n)
    (hi : i ≤ 8) : ∃ u, runSteps (1 + 7 * i) t = .next u ∧ s.AtBit j i u := by
  induction i with
  | zero =>
    obtain ⟨u, hst, hu⟩ := h.atBit_zero h0 hj
    exact ⟨u, runSteps_succ hst, hu⟩
  | succ i ih =>
    obtain ⟨u, hrun, hu⟩ := ih (by omega)
    obtain ⟨v, hbit, hv⟩ := hu.next (by omega) fun k hk => he _ (by omega)
    exact ⟨v, (runSteps_add 7 hrun).trans hbit, hv⟩

/-- The state before each byte of the XFER. -/
theorem State.XferStart.atByte (h : s.XferStart n) (he : s.NoDriverError (2 + 32 * n)) (hj : j ≤ n) :
    ∃ t, runSteps (1 + 58 * j) s = .next t ∧ s.AtByte n j t := by
  induction j with
  | zero =>
    obtain ⟨t, hst, ht⟩ := h.atByte_zero (he 0 (by omega))
    exact ⟨t, runSteps_succ hst, ht⟩
  | succ j ih =>
    obtain ⟨t, hrun, ht⟩ := ih (by omega)
    obtain ⟨u, hbits, hu⟩ := ht.atBit h he hj (le_refl 8)
    obtain ⟨v, hst, hv⟩ := hu.atByte_succ hj h.len
    exact ⟨v, runSteps_add_one ((runSteps_add _ hrun).trans hbits) hst, hv⟩

/-- The end of the XFER: X_CS_HI (R241), with the trace and the entries received. -/
theorem State.XferStart.run (h : s.XferStart n) (he : s.NoDriverError (2 + 32 * n)) :
    ∃ t, runSteps (2 + 58 * n) s = .next t ∧ t.Inv ∧ t.busy = false ∧ t.fault = false ∧
      t.trace = s.trace ++ s.sentBytes n ++ [.write s.port.cs .high] ∧
      ∀ k < n, t.rx.read k = some (shiftedIn (s.sampled k) 8) := by
  obtain ⟨t, hrun, ht⟩ := h.atByte he (le_refl n)
  have hack : t.nextAnswer.err = false := by
    rw [State.nextAnswer, ht.answers]
    exact he _ (by omega)
  have hst := step_xCsHi ht.quiet ht.busy (ht.phase.trans (if_pos rfl)) hack
  refine ⟨_, ?_, ht.inv.step hst, rfl, ?_, ?_, ?_⟩
  · have := runSteps_add_one hrun hst
    rwa [show 1 + 58 * n + 1 = 2 + 58 * n by omega] at this
  · simpa [State.written] using ht.inv.fault_of_busy ht.busy
  · simp [State.written, ht.trace, ht.port]
  · simpa [State.written] using ht.received

/-- At X_SAMPLE of bit `i` of byte `j` the next answer is the one sampled, and mosi has the level of the bit (R234, R237). -/
theorem State.XferStart.at_sample (h : s.XferStart n) (he : s.NoDriverError (2 + 32 * n)) (hj : j < n) (hi : i < 8) :
    ∃ k < 2 + 58 * n, ∃ t, runSteps k s = .next t ∧ t.phase = Phase.xSample ∧ t.nextAnswer.lvl = s.sampled j i ∧
      t.level t.port.mosi = (lvl (serialBit (s.sentByte j) i)).line := by
  obtain ⟨t, hrun, ht⟩ := h.atByte he (le_of_lt hj)
  obtain ⟨u, hbits, hu⟩ := ht.atBit h he hj (le_of_lt hi)
  have hphase : u.phase = Phase.xClkLo := hu.phase.trans (if_neg (by omega))
  have hack : ∀ k < 4, (u.answerAt k).err = false := fun k hk => hu.answers k ▸ he _ (by omega)
  have hpins := (Port.distinct_iff _).mp (hu.inv.port_legal hu.busy).1
  refine ⟨1 + 58 * j + (1 + 7 * i) + 4, by omega, u.toSample, ?_, by simp, ?_, ?_⟩
  · rw [runSteps_add 4 ((runSteps_add _ hrun).trans hbits), runSteps_toSample hu.quiet hu.busy hphase hack]
  · rw [State.nextAnswer, State.toSample_answerAt, hu.answers, State.sampled]
    congr 2; omega
  · have hport : u.toSample.port = u.port := by simp [State.toSample, State.written]
    rw [hport, u.toSample_level_mosi hu.inv.lines_wf hpins.2.2.2.1, hu.out, outBit_iterate_shiftOut _ hi]

end

/-! ## The obligations about a whole XFER -/

theorem State.sentBytes_eq_transferEvents (s : State) (n : Nat) :
    s.sentBytes n ++ [.write s.port.cs .high] =
      transferEvents s.port s.half.toNat n (fun j => (s.tx.read j).getD 0) s.sampled := rfl

theorem bitEvents_length (p : Port) (h : Nat) (b : Byte) (l : Level) : (bitEvents p h b l).length = 6 := rfl

theorem transferEvents_length (p : Port) (h n : Nat) (bytes : Nat → Byte) (ls : Nat → Nat → Level) :
    (transferEvents p h n bytes ls).length = 2 + 48 * n := by
  simp [transferEvents, byteEvents, bitEvents_length]
  omega

/-- Settles O53: an induction over the bytes, and in each over the bits; X_CS_HI ends the run. -/
theorem xferRunAppendsItsTrace : Obligations.XferRunAppendsItsTrace := by
  intro s n h he
  obtain ⟨t, hrun, hinv, hb, hf, htrace, -⟩ := h.run he
  rw [List.append_assoc, State.sentBytes_eq_transferEvents] at htrace
  refine ⟨t, hrun, State.status_eq_zero (hinv.fcode_zero hf) hf hb, hinv.phase_idle hb, ?_, htrace⟩
  rw [htrace, List.length_append, transferEvents_length]
  omega

theorem Level.line_injective : Function.Injective Level.line := by
  intro a b h
  cases a <;> cases b <;> first | rfl | cases h

/-- Settles O57: each sample is the bit on mosi, and eight of them make the byte. -/
theorem loopbackReturnsTheSentBytes : Obligations.LoopbackReturnsTheSentBytes := by
  intro s n h he hloop
  obtain ⟨t, hrun, -, -, -, -, hrx⟩ := h.run he
  refine ⟨t, hrun, fun j hj => ?_⟩
  have hsampled : ∀ i < 8, s.sampled j i = lvl (serialBit (s.sentByte j) i) := by
    intro i hi
    obtain ⟨k, hk, u, hu, hphase, hanswer, hmosi⟩ := h.at_sample he hj hi
    have := hloop k hk u hu hphase
    rw [hanswer, hmosi] at this
    exact Level.line_injective this
  rw [Memory.valid, hrx j hj, shiftedIn_serialBit _ _ hsampled, h.read_tx hj]
  exact ⟨rfl, rfl⟩

/-- Settles O58: each sample is the held level. -/
theorem heldMisoReturnsConstantBytes : Obligations.HeldMisoReturnsConstantBytes := by
  intro s n l h he hheld
  obtain ⟨t, hrun, -, -, -, -, hrx⟩ := h.run he
  refine ⟨t, hrun, fun j hj => ?_⟩
  have hsampled : ∀ i < 8, s.sampled j i = l := by
    intro i hi
    obtain ⟨k, hk, u, hu, hphase, hanswer, -⟩ := h.at_sample he hj hi
    exact hanswer ▸ hheld k hk u hu hphase
  rw [hrx j hj, shiftedIn_const l _ hsampled]

end Sys2Proof.Machine
end

section
/-! The host's access by the rows that it runs (40_host_bus.md R150): an access of another width (O8), the reads (O19), and the frame of all
25 rows (O20) from what each row can do. -/

namespace Sys2Proof.Machine

section
variable {s t : State}

/-! ## An access of another width (R89, R175) -/

theorem fetchInput_access_of_width {p : Params} {bits : Nat} {d : Descriptor} {i : Instr} (hbits : bits ≠ 32)
    (h : decode (.bus d) = .instr i) :
    fetchInput p (.access bits d) = .run (.accessUnmapped (descWrite d) (descOff d) (descData d)) := by
  rw [decode] at h
  simp [fetchInput, fetchAccess, h, hbits]

theorem exec_accessUnmapped (w : Bool) (off : BitVec 16) (v : Word) (s : State) :
    exec (.accessUnmapped w off v) s = .next s.busError := rfl

/-- Settles O8: with BUSY = 0 or on the host's turn, what is fetched is ACCESS_UNMAPPED, and its answer is a bus error. -/
theorem otherWidthGetsBusError : Obligations.OtherWidthGetsBusError := by
  intro s bits d i rest hin hbits hd
  refine ⟨?idle, ?hostTurn⟩
  case idle =>
    intro hb
    have hfetch := State.fetch_of_idle hin hb
    rw [fetchInput_access_of_width hbits hd] at hfetch
    rw [step_of_fetch_run hfetch, exec_accessUnmapped]
    rfl
  case hostTurn =>
    intro sch hb hs
    have hfetch := State.fetch_of_turn (by simp) hin hb hs
    rw [fetchInput_access_of_width hbits hd] at hfetch
    rw [step_of_fetch_run hfetch, exec_accessUnmapped]
    rfl

/-! ## Reads (R91) -/

/-- The rows that read, ACCESS_UNMAPPED as a read among them. -/
def isReadRow : Instr → Bool
  | .rdCfgCs | .rdCfgClk | .rdCfgMosi | .rdCfgMiso | .rdCfgSpeed | .rdLen | .rdCmd | .rdStatus | .rdHalfNs => true
  | .rdTxbuf _ | .rdRxbuf _ | .accessUnmapped false _ _ => true
  | _ => false

theorem exec_eq_reply_of_hostRead {i : Instr} (h : ∃ ok v, exec i s = .next (s.hostRead ok v)) :
    ∃ a, exec i s = .next (s.reply a) := by
  obtain ⟨ok, v, h⟩ := h
  obtain ⟨e, -⟩ | e := s.hostRead_cases ok v
  · exact ⟨_, by rw [h, e]⟩
  · exact ⟨.busError, by rw [h, e, State.busError]⟩

/-- A read answers and does nothing else. -/
theorem exec_readRow {i : Instr} (hi : isReadRow i = true) (s : State) : ∃ a, exec i s = .next (s.reply a) := by
  cases i
  case rdCfgCs | rdCfgClk | rdCfgMosi | rdCfgMiso | rdCfgSpeed | rdLen | rdHalfNs | rdTxbuf | rdRxbuf =>
    exact exec_eq_reply_of_hostRead ⟨_, _, rfl⟩
  case rdCmd | rdStatus | accessUnmapped => exact ⟨_, rfl⟩
  all_goals cases hi

/-- What a read answers does not depend on the answer before. -/
theorem exec_readRow_reply {i : Instr} (hi : isReadRow i = true) (s : State) (a : BusAnswer) :
    exec i (s.reply a) = exec i s := by
  cases i
  case rdCfgCs | rdCfgClk | rdCfgMosi | rdCfgMiso | rdCfgSpeed | rdLen | rdCmd | rdStatus | rdHalfNs | rdTxbuf | rdRxbuf |
      accessUnmapped => rfl
  all_goals cases hi

/-- Settles O19: a read leaves the state with another answer, and reads the same there. -/
theorem readsHaveNoSideEffect : Obligations.ReadsHaveNoSideEffect := by
  intro s t k off i hmem h
  have hi : isReadRow i = true := List.all_eq_true.mp (by rfl) i hmem
  obtain ⟨a, ha⟩ := exec_readRow hi s
  obtain rfl : s.reply a = t := Host.Outcome.next.inj (ha.symm.trans h)
  exact ⟨rfl, (exec_readRow_reply hi s a).trans ha⟩

/-! ## Everything a row can do (R150, R166) -/

/-- What a write to a register or to a buffer entry stores, when it is done (R154 to R164, R172). -/
def State.writeOf (s : State) : Instr → Option State
  | .wrCfgCs v => some { s with cfgCs := v }
  | .wrCfgClk v => some { s with cfgClk := v }
  | .wrCfgMosi v => some { s with cfgMosi := v }
  | .wrCfgMiso v => some { s with cfgMiso := v }
  | .wrCfgSpeed v => some { s with cfgSpeed := v }
  | .wrLen v => some { s with len := v }
  | .wrTxbuf k v => some { s with tx := s.tx.store k.toNat (lowByte v) }
  | _ => none

/-- `s.HostRow i t`: the row `i` of the `bus` format takes `s` to `t`. `HostStep` says what a host access can do, this says which row
does it. -/
inductive State.HostRow (s : State) : Instr → State → Prop
  | answered {i : Instr} (a : BusAnswer) : s.HostRow i (s.reply a)
  | raised {i : Instr} (c : FaultCode) (hf : s.fault = false) : s.HostRow i ((s.raiseFault c).reply .done)
  | written {i : Instr} {u : State} (hu : s.writeOf i = some u) (hf : s.fault = false) (hb : s.busy = false) :
      s.HostRow i (u.reply .done)
  | init (hp : s.portFault = none) (hf : s.fault = false) (hb : s.busy = false) :
      s.HostRow .init (s.acceptInit.reply .done)
  | xfer (hp : s.portFault = none) (hx : s.transferFault = none) (hf : s.fault = false) (hb : s.busy = false) :
      s.HostRow .xfer (s.acceptXfer.reply .done)

theorem State.hostRow_hostRead (s : State) (i : Instr) (ok : Bool) (v : Word) : s.HostRow i (s.hostRead ok v) := by
  obtain ⟨e, -⟩ | e := s.hostRead_cases ok v <;> rw [e]
  · exact .answered _
  · exact .answered _

theorem State.hostRow_hostWrite {i : Instr} {f : State → State}
    (h : s.fault = false → s.busy = false → s.HostRow i ((f s).reply .done)) : s.HostRow i (s.hostWrite f) := by
  obtain ⟨-, e⟩ | ⟨hf, -, e⟩ | ⟨hf, hb, e⟩ := s.hostWrite_cases f <;> rw [e]
  · exact .answered _
  · exact .raised _ hf
  · exact h hf hb

/-- The row of a CMD write is that of its command. -/
theorem State.hostRow_writeCmd {i : Instr} {v : Word} (hinit : cmdOp v = some .init → i = .init)
    (hxfer : cmdOp v = some .xfer → i = .xfer) : s.HostRow i (s.writeCmd v) := by
  apply State.hostRow_hostWrite
  intro hf hb
  obtain ⟨c, -, e⟩ | ⟨hv, hp, e⟩ | ⟨hv, hp, hx, e⟩ := s.command_cases v <;> rw [e]
  · exact .raised c hf
  · rw [hinit hv]; exact .init hp hf hb
  · rw [hxfer hv]; exact .xfer hp hx hf hb

/-- A command is spelt by its own word only (R113). -/
theorem eq_word_of_cmdOp {v : Word} {op : CmdOp} (h : cmdOp v = some op) : v = op.word := by
  have hv : v = v.extractLsb' 2 30 ++ v.extractLsb' 0 2 :=
    ((BitVec.extractLsb'_append_extractLsb'_eq_extractLsb' (len₂ := 30) (Nat.zero_add 2).symm).trans
      BitVec.extractLsb'_eq_self).symm
  unfold cmdOp at h
  split_ifs at h with hhigh hinit hxfer
  · cases h
    rw [hv, not_not.mp hhigh, hinit]
    rfl
  · cases h
    rw [hv, not_not.mp hhigh, hxfer]
    rfl

theorem cmdOp_of_wf_cmdReserved {v : Word} (h : (Instr.cmdReserved v).wf = true) : cmdOp v = none := by
  obtain ⟨hinit, hxfer⟩ : v ≠ CmdOp.init.word ∧ v ≠ CmdOp.xfer.word := by simpa [Instr.wf, CmdOp.word] using h
  cases hv : cmdOp v with
  | none => rfl
  | some op =>
    cases op
    · exact absurd (eq_word_of_cmdOp hv) hinit
    · exact absurd (eq_word_of_cmdOp hv) hxfer

theorem State.hostRow_execWrTxbuf {k : BitVec 10} {v : Word} (h : exec (.wrTxbuf k v) s = .next t) :
    s.HostRow (.wrTxbuf k v) t := by
  change Host.Outcome.next _ = _ at h
  cases h
  split_ifs
  · exact State.hostRow_hostWrite fun hf hb => .written rfl hf hb
  · exact .answered _

/-- Every row of the `bus` format is a read, a write, a command, or a bus error. -/
theorem State.hostRow_of_exec {i : Instr} (hw : i.wf = true) (hi : isHostAccess i) (h : exec i s = .next t) :
    s.HostRow i t := by
  obtain ⟨d, hd⟩ := hi
  cases i
  case rdCfgCs | rdCfgClk | rdCfgMosi | rdCfgMiso | rdCfgSpeed | rdLen | rdHalfNs | rdTxbuf | rdRxbuf =>
    cases h; exact s.hostRow_hostRead _ _ _
  case wrCfgCs | wrCfgClk | wrCfgMosi | wrCfgMiso | wrCfgSpeed | wrLen =>
    cases h; exact State.hostRow_hostWrite fun hf hb => .written rfl hf hb
  case wrTxbuf => exact State.hostRow_execWrTxbuf h
  case init => cases h; exact State.hostRow_writeCmd (fun _ => rfl) (by simp)
  case xfer => cases h; exact State.hostRow_writeCmd (by simp) (fun _ => rfl)
  case cmdReserved v =>
    cases h; exact State.hostRow_writeCmd (by simp [cmdOp_of_wf_cmdReserved hw]) (by simp [cmdOp_of_wf_cmdReserved hw])
  case rdCmd | rdStatus | wrStatus | wrHalfNs | wrRxbuf | accessUnmapped => cases h; exact .answered _
  all_goals cases hd

/-! ## The frame of the host accesses -/

/-- Settles O20: for each outcome of a row, what it leaves. -/
theorem hostAccessFrame : Obligations.HostAccessFrame := by
  intro i s t hw hi h
  cases State.hostRow_of_exec hw hi h with
  | answered a => simp
  | raised c hf => simp [hf, Phase.idle]
  | @written _ u hu hf hb =>
    cases i
    case wrTxbuf k v =>
      cases hu
      have htx : ∀ m, m ≠ k.toNat → (s.tx.store k.toNat (lowByte v)).read m = s.tx.read m := fun m hm =>
        Memory.read_store_other _ _ hm.symm
      simpa using htx
    case wrCfgCs | wrCfgClk | wrCfgMosi | wrCfgMiso | wrCfgSpeed | wrLen => cases hu; simp
    all_goals cases hu
  | init hp hf hb => simp
  | xfer hp hx hf hb => simp [hf, hb]

end

end Sys2Proof.Machine
end

section
/-! The encoding of the instructions (30_encoding.md R111, R112, R120, R124, R125): what an offset selects, the encoding of the access that a
descriptor's fields name, the words of the sequencer; the round trips O1 and O2, and from them O3, O4. -/

namespace Sys2Proof.Machine

/-! ## Register selection (R112) -/

/-- An offset inside the first window is that of a control register, or selects nothing (R30, R83). -/
theorem ctlAt_cases (off : BitVec 16) : (∃ r : CtlReg, off = r.offset) ∨ ctlAt off = .unmapped := by
  unfold ctlAt
  split_ifs with hcs hclk hmosi hmiso hspeed hlen hcmd hstatus hhalf
  · exact .inl ⟨.cfgCs, hcs⟩
  · exact .inl ⟨.cfgClk, hclk⟩
  · exact .inl ⟨.cfgMosi, hmosi⟩
  · exact .inl ⟨.cfgMiso, hmiso⟩
  · exact .inl ⟨.cfgSpeed, hspeed⟩
  · exact .inl ⟨.len, hlen⟩
  · exact .inl ⟨.cmd, hcmd⟩
  · exact .inl ⟨.status, hstatus⟩
  · exact .inl ⟨.halfNs, hhalf⟩
  · exact .inr rfl

/-- The four fields of an offset that register selection reads (R112). -/
theorem offset_fields (off : BitVec 16) :
    off.extractLsb' 14 2 ++ off.extractLsb' 12 2 ++ off.extractLsb' 2 10 ++ off.extractLsb' 0 2 = off := by
  rw [BitVec.extractLsb'_append_extractLsb'_eq_extractLsb' (start₁ := 12) (len₁ := 2) rfl,
    BitVec.extractLsb'_append_extractLsb'_eq_extractLsb' (start₁ := 2) (len₁ := 10) rfl,
    BitVec.extractLsb'_append_extractLsb'_eq_extractLsb' (start₁ := 0) (len₁ := 2) rfl, BitVec.extractLsb'_eq_self]

/-- Everything an offset can be: that of a control register, of a buffer entry, or one that selects nothing. -/
theorem selectReg_cases (off : BitVec 16) :
    (∃ r : CtlReg, off = r.offset) ∨ (∃ k, off = txOffset k) ∨ (∃ k, off = rxOffset k) ∨ selectReg off = .unmapped := by
  have hoff := offset_fields off
  unfold selectReg
  split_ifs with hlow hhigh htx hrx hctl
  · exact .inr (.inr (.inr rfl))
  · exact .inr (.inr (.inr rfl))
  · rw [not_not.mp hlow, not_not.mp hhigh, htx] at hoff
    exact .inr (.inl ⟨_, hoff.symm⟩)
  · rw [not_not.mp hlow, not_not.mp hhigh, hrx] at hoff
    exact .inr (.inr (.inl ⟨_, hoff.symm⟩))
  · obtain hr | hu := ctlAt_cases off
    · exact .inl hr
    · exact .inr (.inr (.inr hu))
  · exact .inr (.inr (.inr rfl))

/-! ## The access that the fields W, OFF, DATA name -/

theorem accessInstr_of_unmapped {off : BitVec 16} (h : selectReg off = .unmapped) (w : Bool) (v : Word) :
    accessInstr w off v = .accessUnmapped w off v := by
  rw [accessInstr, h]

theorem encode_readCtl (r : CtlReg) : encode (readCtl r) = .bus (descriptor false r.offset 0) := by
  cases r <;> rfl

theorem wf_readCtl (r : CtlReg) : (readCtl r).wf = true := by
  cases r <;> rfl

theorem wf_cmdReserved_iff {v : Word} : (Instr.cmdReserved v).wf = true ↔ v ≠ 1 ∧ v ≠ 2 := by
  simp [Instr.wf]

theorem wf_accessUnmapped_iff {w : Bool} {off : BitVec 16} {v : Word} :
    (Instr.accessUnmapped w off v).wf = true ↔ selectReg off = .unmapped ∧ (w = true ∨ v = 0) := by
  simp [Instr.wf]

/-- INIT and XFER are matched before CMD_RESERVED (R125). -/
theorem encode_writeCmdInstr (v : Word) :
    encode (writeCmdInstr v) = .bus (descriptor true CtlReg.cmd.offset v) ∧ (writeCmdInstr v).wf = true := by
  unfold writeCmdInstr
  split_ifs with hinit hxfer
  · subst hinit; exact ⟨rfl, rfl⟩
  · subst hxfer; exact ⟨rfl, rfl⟩
  · exact ⟨rfl, wf_cmdReserved_iff.mpr ⟨hinit, hxfer⟩⟩

theorem encode_writeCtl (v : Word) (r : CtlReg) :
    encode (writeCtl v r) = .bus (descriptor true r.offset v) ∧ (writeCtl v r).wf = true := by
  cases r
  case cmd => exact encode_writeCmdInstr v
  all_goals exact ⟨rfl, rfl⟩

/-- The access of a descriptor's fields is well-formed, and its encoding has these fields. -/
theorem encode_accessInstr {w : Bool} (off : BitVec 16) {v : Word} (h : w = true ∨ v = 0) :
    encode (accessInstr w off v) = .bus (descriptor w off v) ∧ (accessInstr w off v).wf = true := by
  have hw : w = true ∨ w = false ∧ v = 0 := by
    cases w with
    | true => exact .inl rfl
    | false => exact .inr ⟨rfl, by simpa using h⟩
  obtain ⟨r, rfl⟩ | ⟨k, rfl⟩ | ⟨k, rfl⟩ | hu := selectReg_cases off
  case inr.inr.inr =>
    rw [accessInstr_of_unmapped hu]
    exact ⟨rfl, wf_accessUnmapped_iff.mpr ⟨hu, h⟩⟩
  all_goals obtain rfl | ⟨rfl, rfl⟩ := hw
  all_goals simp only [accessInstr, selectReg_offset, selectReg_txOffset, selectReg_rxOffset]
  case inl.inl => exact encode_writeCtl v r
  case inl.inr => exact ⟨encode_readCtl r, wf_readCtl r⟩
  all_goals exact ⟨rfl, rfl⟩

/-! ## Decoding a descriptor (R124) -/

theorem decodeBus_of_reservedBits {d : Descriptor} (h : descRes d ≠ 0) : decodeBus d = .refuse .reservedBitsSet := if_pos h

theorem decodeBus_of_readData {d : Descriptor} (h : descRes d = 0) (hw : descWrite d = false) (hv : descData d ≠ 0) :
    decodeBus d = .refuse .readWithData := by
  rw [decodeBus, if_neg (not_not.mpr h), if_pos ⟨hw, hv⟩]

theorem decodeBus_of_access {d : Descriptor} (h : descRes d = 0) (hd : descWrite d = true ∨ descData d = 0) :
    decodeBus d = .instr (accessInstr (descWrite d) (descOff d) (descData d)) := by
  simpa [descriptor_fields h] using decodeBus_descriptor (descOff d) hd

/-- A descriptor that decodes has RES = 0, is a write or has DATA = 0, and names the instruction by its fields. -/
theorem eq_accessInstr_of_decodeBus {d : Descriptor} {i : Instr} (h : decodeBus d = .instr i) :
    descRes d = 0 ∧ (descWrite d = true ∨ descData d = 0) ∧ i = accessInstr (descWrite d) (descOff d) (descData d) := by
  by_cases hres : descRes d = 0
  · by_cases hd : descWrite d = true ∨ descData d = 0
    · rw [decodeBus_of_access hres hd] at h
      exact ⟨hres, hd, (Decoded.instr.inj h).symm⟩
    · obtain ⟨hw, hv⟩ := not_or.mp hd
      rw [decodeBus_of_readData hres (Bool.eq_false_of_not_eq_true hw) hv] at h
      cases h
  · rw [decodeBus_of_reservedBits hres] at h
    cases h

/-! ## The round trips -/

theorem wf_decodeSeq : ∀ c : BitVec 5, (decodeSeq c).wf = true := by decide

/-- Settles O2: a descriptor by its fields, a phase code by the table of R120. -/
theorem encodeOfDecodeIsIdentity : Obligations.EncodeOfDecodeIsIdentity := by
  intro c i h
  cases c with
  | bus d =>
    obtain ⟨hres, hd, rfl⟩ := eq_accessInstr_of_decodeBus h
    have he := encode_accessInstr (descOff d) hd
    rwa [descriptor_fields hres] at he
  | seq c =>
    cases h
    exact ⟨encode_decodeSeq c, wf_decodeSeq c⟩

/-- Settles O1: each row by what its fields select, the catch-all rows by their well-formedness. -/
theorem decodeOfEncodeIsIdentity : Obligations.DecodeOfEncodeIsIdentity := by
  intro i hi
  cases i
  case rdCfgCs | rdCfgClk | rdCfgMosi | rdCfgMiso | rdCfgSpeed | rdLen | rdCmd | rdStatus | rdHalfNs =>
    exact decodeBus_descriptor _ (.inr rfl)
  case wrCfgCs | wrCfgClk | wrCfgMosi | wrCfgMiso | wrCfgSpeed | wrLen | init | xfer | wrStatus | wrHalfNs =>
    exact decodeBus_descriptor _ (.inl rfl)
  case cmdReserved v =>
    obtain ⟨hinit, hxfer⟩ := wf_cmdReserved_iff.mp hi
    have hv : writeCmdInstr v = .cmdReserved v := by rw [writeCmdInstr, if_neg hinit, if_neg hxfer]
    exact (decodeBus_descriptor _ (.inl rfl)).trans (congrArg Decoded.instr hv)
  case rdTxbuf | rdRxbuf => exact (decodeBus_descriptor _ (.inr rfl)).trans (by simp [accessInstr])
  case wrTxbuf | wrRxbuf => exact (decodeBus_descriptor _ (.inl rfl)).trans (by simp [accessInstr])
  case accessUnmapped w off v =>
    obtain ⟨hu, hd⟩ := wf_accessUnmapped_iff.mp hi
    exact (decodeBus_descriptor _ hd).trans (congrArg Decoded.instr (accessInstr_of_unmapped hu w v))
  case phaseUnused12 low => revert low; decide
  case phaseUnused14 low => revert low; decide
  case phaseUnused18 low => revert low; decide
  all_goals rfl

/-- Settles O3: the two refusals, and the access of the fields, whose encoding is the word again by O2. -/
theorem decodingIsTotalAndRefusesByName : Obligations.DecodingIsTotalAndRefusesByName := by
  intro d
  refine ⟨decodeBus_of_reservedBits, decodeBus_of_readData, fun hres hd => ?_⟩
  have hdec := decodeBus_of_access hres hd
  refine ⟨_, hdec, (encodeOfDecodeIsIdentity (.bus d) _ hdec).1, fun hu s => ?_⟩
  rw [accessInstr_of_unmapped (off := descOff d) hu, exec_accessUnmapped]
  rfl

/-- Settles O4: closed words, each decoded by evaluation. -/
theorem wordsOfTheSpecDecode : Obligations.WordsOfTheSpecDecode := by
  unfold Obligations.WordsOfTheSpecDecode
  decide

end Sys2Proof.Machine
end

section
/-! The GPIO request and response formats (30_encoding.md R115 to R117) and the requests of the phase codes (R120): O5. -/

namespace Sys2Proof.Machine

/-! ## Requests (R115) -/

theorem GpioRequest.bits_kind (r : GpioRequest) : r.bits.extractLsb' 32 2 = r.kind.code := BitVec.extractLsb'_append_eq_left

theorem GpioRequest.bits_pin (r : GpioRequest) : r.bits.extractLsb' 0 32 = r.pin := BitVec.extractLsb'_append_eq_right

/-- 34 bits are made of their KIND and PIN fields. -/
theorem GpioRequest.bits_eq_of_fields {r : GpioRequest} {b : BitVec 34} (hk : b.extractLsb' 32 2 = r.kind.code)
    (hp : b.extractLsb' 0 32 = r.pin) : r.bits = b := by
  rw [GpioRequest.bits, ← hk, ← hp, BitVec.extractLsb'_append_extractLsb'_eq_extractLsb' (start₁ := 0) (len₁ := 32) rfl,
    BitVec.extractLsb'_eq_self]

/-- 34 bits and VAL spell a request exactly when they are its bits and its VAL. -/
theorem GpioRequest.ofBits_eq_some_iff {b : BitVec 34} {v : Bool} {r : GpioRequest} :
    GpioRequest.ofBits b v = some r ↔ r.bits = b ∧ r.val = v := by
  constructor
  · intro h
    unfold GpioRequest.ofBits at h
    split_ifs at h with hdir hwrite hread <;> cases h
    · exact ⟨GpioRequest.bits_eq_of_fields hdir rfl, rfl⟩
    · exact ⟨GpioRequest.bits_eq_of_fields hwrite rfl, rfl⟩
    · exact ⟨GpioRequest.bits_eq_of_fields hread rfl, rfl⟩
  · rintro ⟨rfl, rfl⟩
    rw [GpioRequest.ofBits, r.bits_kind, r.bits_pin]
    obtain ⟨k, pin, v⟩ := r
    cases k <;> rfl

/-- KIND as a number. -/
theorem toNat_kindField (b : BitVec 34) : (b.extractLsb' 32 2).toNat = b.toNat / 4294967296 := by
  have hb := b.isLt
  rw [BitVec.extractLsb'_toNat, Nat.shiftRight_eq_div_pow]
  omega

/-- KIND 0b11 spells no request, and every other KIND does (R115). -/
theorem GpioRequest.ofBits_eq_none_iff {b : BitVec 34} {v : Bool} :
    GpioRequest.ofBits b v = none ↔ b.toNat / 4294967296 = 3 := by
  have hkind : ∀ k : BitVec 2, k = 0 ∨ k = 1 ∨ k = 2 ∨ k = 3 := by decide
  rw [← toNat_kindField, GpioRequest.ofBits]
  obtain h | h | h | h := hkind (b.extractLsb' 32 2) <;> simp [h]

/-! ## Responses (R116) -/

theorem GpioResponse.toNat_bits (r : GpioResponse) : r.bits.toNat = 2 * r.err.toNat + r.lvl.toNat := by
  obtain ⟨err, lvl⟩ := r
  cases err <;> cases lvl <;> rfl

theorem respond_lvl (r : GpioRequest) (a : GpioAnswer) :
    (respond r a).lvl = decide (r.kind = .read ∧ a.err = false ∧ a.lvl = .high) := by
  have hval : a.lvl.val = decide (a.lvl = .high) := by cases a.lvl <;> rfl
  simp [respond, hval, Bool.and_assoc]

/-! ## The request at PHASE (R120) -/

theorem val_lvl_outBit : ∀ o : Byte, (lvl (outBit o)).val = o.getLsbD 7 := by decide

/-- Settles O5: the format by its fields, the request of each phase code by evaluation at that code. -/
theorem gpioRequestsKeepTheirFormat : Obligations.GpioRequestsKeepTheirFormat := by
  refine ⟨?roundTrip, ?fields, ?kind3, ?response, fun s => ⟨?requests, ?none⟩⟩
  case roundTrip => exact fun r => GpioRequest.ofBits_eq_some_iff.mpr ⟨rfl, rfl⟩
  case fields => exact fun b v r => GpioRequest.ofBits_eq_some_iff.mp
  case kind3 => exact fun b v => GpioRequest.ofBits_eq_none_iff
  case response =>
    intro r a
    rw [GpioResponse.toNat_bits, respond_lvl, respond_err]
    split_ifs with h <;> simp [h]
  case requests =>
    simp only [List.forall_mem_cons, ← val_lvl_outBit]
    exact ⟨rfl, rfl, rfl, rfl, rfl, rfl, rfl, rfl, rfl, rfl, rfl, rfl, fun _ h => nomatch h⟩
  case none =>
    simp only [List.forall_mem_cons]
    exact ⟨rfl, rfl, rfl, rfl, rfl, rfl, fun _ h => nomatch h⟩

end Sys2Proof.Machine
end

section
/-! The steps of the encoding family: where a step stops (O44), POLL (O10), IDLE and the unused codes (O31). -/

namespace Sys2Proof.Machine

section
variable {s : State}

/-! ## Which instructions go on -/

/-- Every instruction but the rows of the unused codes ends in a next state (R121, R315, R320). -/
theorem exec_next_of_encode {i : Instr} (h : ∀ c, encode i = .seq c → c.toNat < 0x12) (s : State) :
    ∃ t, exec i s = .next t := by
  have hunused : (∀ a : BitVec 1, ¬ (9#4 ++ a).toNat < 0x12) ∧ (∀ a : BitVec 2, ¬ (5#3 ++ a).toNat < 0x12) ∧
      ∀ a : BitVec 3, ¬ (3#2 ++ a).toNat < 0x12 := by decide
  obtain ⟨h12, h14, h18⟩ := hunused
  cases i
  case phaseUnused12 a => exact absurd (h _ rfl) (h12 a)
  case phaseUnused14 a => exact absurd (h _ rfl) (h14 a)
  case phaseUnused18 a => exact absurd (h _ rfl) (h18 a)
  all_goals exact ⟨_, rfl⟩

theorem exec_next_of_isHostAccess {i : Instr} (hi : isHostAccess i) (s : State) : ∃ t, exec i s = .next t := by
  obtain ⟨d, hd⟩ := hi
  exact exec_next_of_encode (fun c hc => by rw [hd] at hc; cases hc) s

theorem exec_next_of_used {c : BitVec 5} (hc : c.toNat < 0x12) (s : State) : ∃ t, exec (decodeSeq c) s = .next t := by
  refine exec_next_of_encode (fun c' hc' => ?_) s
  rw [encode_decodeSeq] at hc'
  cases hc'
  exact hc

/-! ## Where a step stops -/

theorem State.Inv.phase_lt (h : s.Inv) : s.phase.toNat < 0x12 := by
  cases hb : s.busy
  · rw [h.phase_idle hb]; decide
  · have := (h.phase_used hb).2; omega

/-- The sequencer goes on (R121). -/
theorem State.Inv.exec_microOp (h : s.Inv) (t : State) : ∃ u, exec s.microOp t = .next u := by
  unfold State.microOp
  split_ifs
  · exact exec_next_of_used h.phase_lt t
  · exact ⟨t, rfl⟩

theorem fetchAccess_invalid {bits : Nat} {d : Descriptor} {e : DecodeError} (h : fetchAccess bits d = .invalid e) :
    decodeBus d = .refuse e := by
  unfold fetchAccess at h
  cases hd : decodeBus d with
  | refuse e' => rw [hd] at h; cases h; rfl
  | instr i => rw [hd] at h; cases h

/-- Only an access given by its descriptor can spell none: one given by its address has RES = 0, and DATA = 0 if it is a read. -/
theorem fetchInput_invalid {p : Params} {x : Input} {e : DecodeError} (h : fetchInput p x = .invalid e) :
    ∃ bits d, x = .access bits d ∧ decodeBus d = .refuse e := by
  cases x with
  | access bits d => exact ⟨bits, d, rfl, fetchAccess_invalid h⟩
  | accessAt bits w addr data =>
    change fetchAccessAt p bits w addr data = _ at h
    unfold fetchAccessAt at h
    cases ho : p.offsetOf addr with
    | none => rw [ho] at h; cases h
    | some off =>
      rw [ho] at h
      have hdata : w = true ∨ (if w then data else 0) = 0 := by cases w <;> simp
      have href := fetchAccess_invalid h
      rw [decodeBus_descriptor off hdata] at href
      cases href
  | poll => cases h
  | reset b => cases h
  | drvReady b => cases h

/-- The host's next input is fetched, or the micro-operation at PHASE. -/
theorem State.fetch_head_or_microOp (s : State) :
    (∃ x rest t, s.inbox = x :: rest ∧ s.fetch = (fetchInput s.params x, t)) ∨ ∃ t, s.fetch = (.run s.microOp, t) := by
  unfold State.fetch
  split
  next x rest hm hin => exact .inl ⟨x, rest, _, hin, rfl⟩
  next => exact .inr ⟨_, rfl⟩

/-- Settles O44: every instruction fetched goes on, so a step stops only where none is fetched. -/
theorem stepStopsOnlyOnInvalidDescriptors : Obligations.StepStopsOnlyOnInvalidDescriptors := by
  intro s hs
  obtain ⟨x, rest, t, hin, hf⟩ | ⟨t, hf⟩ := s.fetch_head_or_microOp
  · cases hx : fetchInput s.params x with
    | run i =>
      rw [hx] at hf
      rw [step_of_fetch_run hf]
      exact .inl (exec_next_of_isHostAccess (fetchInput_run hx).1 t)
    | event =>
      rw [hx] at hf
      exact .inl ⟨t, step_of_fetch_event hf⟩
    | invalid e =>
      rw [hx] at hf
      obtain ⟨bits, d, rfl, hd⟩ := fetchInput_invalid hx
      exact .inr ⟨bits, d, rest, e, hin, hd, step_of_fetch_invalid hf⟩
  · rw [step_of_fetch_run hf]
    exact .inl (hs.exec_microOp t)

/-! ## POLL (R123) -/

/-- A poll that finds BUSY = 1 stays in the inbox. -/
theorem State.popInput_of_poll_busy {rest : List Input} (hin : s.inbox = .poll :: rest) (hb : s.busy = true) :
    s.popInput = s := by
  simp [State.popInput, hin, hb]

/-- Settles O10: with BUSY = 0 the poll is used up, on the host's turn with BUSY = 1 only the turn is. -/
theorem pollRepeatsWhileBusy : Obligations.PollRepeatsWhileBusy := by
  intro s rest hin
  refine ⟨fun hb => step_of_fetch_run (State.fetch_of_idle hin hb), fun sch hb hs => ?_⟩
  have hpop : s.takeTurn.popInput = { s with schedule := sch, turns := s.turns + 1 } := by
    rw [State.takeTurn_of_choice hin hb, hs, List.tail_cons]
    exact State.popInput_of_poll_busy hin hb
  have hfetch := State.fetch_hostTurn hin hb (State.nextAgent_of_schedule hs)
  rw [hpop] at hfetch
  exact step_of_fetch_run hfetch

/-! ## IDLE and the unused codes (R200, R121) -/

theorem exec_decodeSeq_unused {c : BitVec 5} (hc : 0x12 ≤ c.toNat) (s : State) :
    exec (decodeSeq c) s = .fault (.unusedPhase c) := by
  have hrow : ∀ c : BitVec 5, 0x12 ≤ c.toNat → (∃ a, decodeSeq c = .phaseUnused12 a) ∨ (∃ a, decodeSeq c = .phaseUnused14 a) ∨
      ∃ a, decodeSeq c = .phaseUnused18 a := by decide
  obtain ⟨a, hd⟩ | ⟨a, hd⟩ | ⟨a, hd⟩ := hrow c hc <;> rw [hd] <;> cases seq_of_decodeSeq hd <;> rfl

theorem State.microOp_of_unused (h : 0x12 ≤ s.phase.toNat) : s.microOp = decodeSeq s.phase := by
  have hu : Phase.unused s.phase = true := decide_eq_true h
  simp [State.microOp, hu]

/-- Settles O31: the rows by their meanings, the step at an unused code by what is decoded there. -/
theorem idleStaysAndUnusedPhaseFaults : Obligations.IdleStaysAndUnusedPhaseFaults := by
  refine ⟨fun _ => rfl, fun _ _ => rfl, fun _ _ => rfl, fun _ _ => rfl, fun s hp hin => ?_⟩
  rw [step_microOp_of_quiet hin, State.microOp_of_unused hp, exec_decodeSeq_unused hp]

end

end Sys2Proof.Machine
end

section
/-! The registers and buffers of the host bus (40_host_bus.md R150 to R175), access by access: what each read returns, what each write
stores, and which accesses get a bus error only. O11 to O18 and O27. -/

namespace Sys2Proof.Machine

/-! ## Words as numbers -/

/-- The bits of `x` stand above those of `y`. -/
theorem toNat_append_eq_add {m n : Nat} (x : BitVec m) (y : BitVec n) : (x ++ y).toNat = x.toNat * 2 ^ n + y.toNat := by
  rw [BitVec.toNat_append, ← Nat.shiftLeft_add_eq_or_of_lt y.isLt, Nat.shiftLeft_eq]

/-- A descriptor by the number that its fields make (R111). -/
theorem descriptor_eq_ofNat {w : Bool} {off : BitVec 16} {v : Word} {n : Nat}
    (h : n = w.toNat * 9223372036854775808 + off.toNat * 4294967296 + v.toNat) : descriptor w off v = BitVec.ofNat 64 n := by
  have hlt := (descriptor w off v).isLt
  have hsum : (descriptor w off v).toNat = n := by
    simp only [descriptor, toNat_append_eq_add, BitVec.toNat_ofBool, BitVec.toNat_ofNat]
    omega
  rw [← hsum, BitVec.ofNat_toNat, BitVec.setWidth_eq]

theorem toNat_txOffset (k : BitVec 10) : (txOffset k).toNat = 0x1000 + 4 * k.toNat := by
  simp only [txOffset, toNat_append_eq_add, BitVec.toNat_ofNat]
  omega

theorem toNat_rxOffset (k : BitVec 10) : (rxOffset k).toNat = 0x2000 + 4 * k.toNat := by
  simp only [rxOffset, toNat_append_eq_add, BitVec.toNat_ofNat]
  omega

/-- STATUS as a number (R167). -/
theorem State.toNat_status (s : State) : s.status.toNat = 16 * s.fcode.toNat + 2 * s.fault.toNat + s.busy.toNat := by
  simp only [State.status, toNat_append_eq_add, BitVec.toNat_ofBool, BitVec.toNat_ofNat]
  omega

section
variable {s t : State}

/-! ## Reads and writes by BUSY and FAULT (R150, R151, R302) -/

theorem State.hostRead_of_fault (hf : s.fault = true) (ok : Bool) (v : Word) : s.hostRead ok v = s.busError := if_pos hf

/-- A read that its register refuses is a bus error whatever FAULT is. -/
theorem State.hostRead_refused {ok : Bool} (hok : ok = false) (v : Word) : s.hostRead ok v = s.busError := by
  simp [State.hostRead, hok]

theorem State.hostWrite_of_fault (hf : s.fault = true) (f : State → State) : s.hostWrite f = s.busError := if_pos hf

theorem State.hostWrite_of_busy (hf : s.fault = false) (hb : s.busy = true) (f : State → State) :
    s.hostWrite f = (s.raiseFault .concurrent).reply .done := by
  simp [State.hostWrite, hf, hb]

theorem State.hostWrite_of_idle (hf : s.fault = false) (hb : s.busy = false) (f : State → State) :
    s.hostWrite f = (f s).reply .done := by
  simp [State.hostWrite, hf, hb]

/-- Raising the first fault is the fault entry of R310, whatever the host is answered. -/
theorem State.afterFault_raiseFault (hf : s.fault = false) (c : FaultCode) (a : BusAnswer) :
    s.AfterFault c ((s.raiseFault c).reply a) := by
  simp [State.AfterFault, State.raiseFault, State.faultFlags, State.goto, State.record, State.reply, hf]

/-- A write while BUSY = 1 raises CONCURRENT and does nothing else (R302). -/
theorem exec_concurrent {i : Instr} {f : State → State} (h : exec i s = .next (s.hostWrite f)) (hf : s.fault = false)
    (hb : s.busy = true) : ∃ t, exec i s = .next t ∧ s.AfterFault .concurrent t :=
  ⟨_, by rw [h, State.hostWrite_of_busy hf hb], State.afterFault_raiseFault hf _ _⟩

/-! ## WR TXBUF[k] (R172, R175) -/

theorem exec_wrTxbuf {k : BitVec 10} (hk : k.toNat < s.bufBytes) (v : Word) :
    exec (.wrTxbuf k v) s = .next (s.hostWrite fun t => { t with tx := t.tx.store k.toNat (lowByte v) }) :=
  congrArg Host.Outcome.next (if_pos hk)

theorem exec_wrTxbuf_of_unmapped {k : BitVec 10} (hk : s.bufBytes ≤ k.toNat) (v : Word) :
    exec (.wrTxbuf k v) s = .next s.busError :=
  congrArg Host.Outcome.next (if_neg (not_lt.mpr hk))

/-! ## While FAULT = 1 (R151, R314) -/

/-- A host access to the fault state: step 2 of R150 comes before the access's own meaning. -/
theorem exec_of_fault {i : Instr} (hi : isHostAccess i) (hne : i ≠ .rdStatus) (hf : s.fault = true) :
    exec i s = .next s.busError := by
  obtain ⟨d, hd⟩ := hi
  cases i
  case rdCfgCs | rdCfgClk | rdCfgMosi | rdCfgMiso | rdCfgSpeed | rdLen | rdHalfNs | rdTxbuf | rdRxbuf =>
    exact congrArg Host.Outcome.next (State.hostRead_of_fault hf _ _)
  case wrCfgCs | wrCfgClk | wrCfgMosi | wrCfgMiso | wrCfgSpeed | wrLen | init | xfer | cmdReserved =>
    exact congrArg Host.Outcome.next (State.hostWrite_of_fault hf _)
  case wrTxbuf k v =>
    obtain hk | hk := lt_or_ge k.toNat s.bufBytes
    · rw [exec_wrTxbuf hk, State.hostWrite_of_fault hf]
    · exact exec_wrTxbuf_of_unmapped hk v
  case rdCmd | wrStatus | wrHalfNs | wrRxbuf | accessUnmapped => rfl
  case rdStatus => exact absurd rfl hne
  all_goals cases hd

/-- Settles O27: RD STATUS answers in every state, every other access by its row. -/
theorem faultedBlockAnswersStatusOnly : Obligations.FaultedBlockAnswersStatusOnly := by
  intro i s hf hi
  refine ⟨fun hne => exec_of_fault hi hne hf, ?_⟩
  rintro rfl
  exact ⟨s.status, rfl⟩

/-! ## The plain registers (R153 to R164) -/

/-- Settles O11: each of the six is a read that its register never refuses; the latch is a clause of the invariant. -/
theorem registerReadsReturnTheRegister : Obligations.RegisterReadsReturnTheRegister := by
  intro s
  refine ⟨fun e he => ?_, fun h hb => h.latch hb⟩
  obtain ⟨henc, hexec, hne⟩ : encode e.1 = .bus e.2.2 ∧ exec e.1 s = .next (s.hostRead true e.2.1) ∧ e.1 ≠ .rdStatus := by
    revert e
    simp only [List.forall_mem_cons]
    exact ⟨⟨rfl, rfl, nofun⟩, ⟨rfl, rfl, nofun⟩, ⟨rfl, rfl, nofun⟩, ⟨rfl, rfl, nofun⟩, ⟨rfl, rfl, nofun⟩,
      ⟨rfl, rfl, nofun⟩, nofun⟩
  refine ⟨henc, fun hf => ?_, exec_of_fault ⟨_, henc⟩ hne⟩
  rw [hexec, State.hostRead_ok _ hf]
  rfl

/-- Settles O12: the descriptors by their numbers, each of the six rows as a host write. -/
theorem registerWritesStore : Obligations.RegisterWritesStore := by
  intro s v
  refine ⟨?encodings, fun hf hb => ?stored, fun i hi => ?refused⟩
  case encodings =>
    have henc : ∀ (off : BitVec 16) (n : Nat), n = 9223372036854775808 + off.toNat * 4294967296 →
        CodeWord.bus (descriptor true off v) = .bus (BitVec.ofNat 64 (n + v.toNat)) := fun off n h =>
      congrArg CodeWord.bus (descriptor_eq_ofNat (by rw [h, Bool.toNat_true, one_mul]))
    simp only [List.forall_mem_cons]
    exact ⟨henc 0x000 _ rfl, henc 0x004 _ rfl, henc 0x008 _ rfl, henc 0x00C _ rfl, henc 0x010 _ rfl, henc 0x014 _ rfl, nofun⟩
  case stored =>
    have hwrite := State.hostWrite_of_idle hf hb
    refine ⟨?_, ?_, ?_, ?_, ?_, ?_⟩ <;> exact congrArg _ (hwrite _)
  case refused =>
    obtain ⟨f, hexec⟩ : ∃ f, exec i s = .next (s.hostWrite f) := by
      revert i
      simp only [List.forall_mem_cons]
      exact ⟨⟨_, rfl⟩, ⟨_, rfl⟩, ⟨_, rfl⟩, ⟨_, rfl⟩, ⟨_, rfl⟩, ⟨_, rfl⟩, nofun⟩
    refine ⟨exec_concurrent hexec, fun hf => ?_⟩
    rw [hexec, State.hostWrite_of_fault hf]
    rfl

/-! ## Accesses that are always refused (R165, R168, R170, R174, R175) -/

/-- Settles O13: the refused rows by their meanings, a buffer index beyond BUF_BYTES by the check of its row. -/
theorem refusedAccessesGetBusError : Obligations.RefusedAccessesGetBusError := by
  refine ⟨fun s v k w off => ?rows, fun v k => ⟨rfl, ?wrHalfNs, ?wrRxbuf⟩, fun s k v hk => ?index⟩
  case rows =>
    simp only [List.forall_mem_cons]
    exact ⟨rfl, rfl, rfl, rfl, rfl, nofun⟩
  case wrHalfNs => exact congrArg CodeWord.bus (descriptor_eq_ofNat rfl)
  case wrRxbuf =>
    refine congrArg CodeWord.bus (descriptor_eq_ofNat ?_)
    rw [toNat_rxOffset, Bool.toNat_true]
    omega
  case index =>
    have hout : decide (k.toNat < s.bufBytes) = false := decide_eq_false (not_lt.mpr hk)
    simp only [List.forall_mem_cons]
    exact ⟨congrArg _ (State.hostRead_refused (by simp [hout]) _), exec_wrTxbuf_of_unmapped hk v,
      congrArg _ (State.hostRead_refused (by simp [hout]) _), rfl, nofun⟩

/-! ## STATUS and HALF_NS (R167, R169) -/

/-- Settles O14: RD STATUS returns `State.status`, whose number is the packing. -/
theorem statusReadPacksTheFlags : Obligations.StatusReadPacksTheFlags :=
  fun s => ⟨rfl, s.status, rfl, s.toNat_status⟩

/-- For a positive speed the division that truncates toward zero is the division of the naturals (R11, R280). -/
theorem halfPeriod_eq_ediv (v : Word) (hv : 0 < v.toInt) : (halfPeriod v : Int) = 500000000 / v.toInt := by
  rw [halfPeriod, s32, Int.tdiv_eq_ediv_of_nonneg (by norm_num), Int.toNat_of_nonneg (Int.ediv_nonneg (by norm_num) hv.le)]

/-- The half-period fits in HALF, 29 bits, and in any wider word (R281). -/
theorem toNat_ofNat_halfPeriod {w : Nat} (hw : 29 ≤ w) (v : Word) : (BitVec.ofNat w (halfPeriod v)).toNat = halfPeriod v := by
  have hle := halfPeriod_le v
  have hpow : 2 ^ 29 ≤ 2 ^ w := Nat.pow_le_pow_right (by norm_num) hw
  rw [BitVec.toNat_ofNat, Nat.mod_eq_of_lt (by omega)]

/-- Only an accepted XFER sets BUSY, and it latches the half-period (R230). -/
theorem half_of_exec_xfer (hb : s.busy = false) (h : exec .xfer s = .next t) (ht : t.busy = true) :
    t.half.toNat = halfPeriod s.cfgSpeed := by
  cases State.hostRow_of_exec rfl ⟨_, rfl⟩ h with
  | xfer => exact toNat_ofNat_halfPeriod le_rfl s.cfgSpeed
  | answered | raised => simp [hb] at ht
  | written hu => cases hu

/-- Settles O15: the value read and the value latched are both the half-period of CFG_SPEED. -/
theorem halfNsReadReturnsTheHalfPeriod : Obligations.HalfNsReadReturnsTheHalfPeriod := by
  intro s
  refine ⟨rfl, fun hf hs => ?positive, fun _ hs => ?nonpositive, exec_of_fault ⟨_, rfl⟩ nofun⟩
  case positive =>
    have hok : s.cfgPort.speedOk = true := (Port.speedOk_iff _).mpr hs
    have hw := toNat_ofNat_halfPeriod (w := 32) (by norm_num) s.cfgSpeed
    refine ⟨BitVec.ofNat 32 (halfPeriod s.cfgSpeed), ?_, ?_, fun t hb hx ht => ?_⟩
    · change Host.Outcome.next (s.hostRead s.cfgPort.speedOk _) = _
      rw [hok, State.hostRead_ok _ hf]
      rfl
    · rw [hw, halfPeriod_eq_ediv _ hs]
    · rw [hw, half_of_exec_xfer hb hx ht]
  case nonpositive =>
    have hok : s.cfgPort.speedOk = false :=
      Bool.eq_false_iff.mpr fun h => not_lt.mpr hs ((Port.speedOk_iff _).mp h)
    exact congrArg _ (State.hostRead_refused hok _)

/-! ## The buffers (R171 to R173) -/

/-- What a buffer read is answered with (R118). -/
theorem zext32_eq_ofNat (b : Byte) : zext32 b = BitVec.ofNat 32 b.toNat := (BitVec.ofNat_toNat 32 b).symm

/-- A read of a buffer entry that holds a byte, when its row lets it through. -/
theorem State.hostRead_entry {m : Memory} {k : Nat} {b : Byte} {ok : Bool} (hf : s.fault = false) (hok : ok = true)
    (hr : m.read k = some b) :
    s.hostRead ok (zext32 ((m.read k).getD 0)) = { s with answer := some (.data (BitVec.ofNat 32 b.toNat)) } := by
  rw [hok, State.hostRead_ok _ hf, hr, Option.getD_some, zext32_eq_ofNat]
  rfl

theorem Memory.valid_of_read {m : Memory} {k : Nat} {b : Byte} (hr : m.read k = some b) : m.valid k = true :=
  (Memory.valid_iff m k).mpr ⟨b, hr⟩

/-- Settles O16: the read's condition is that the entry is valid. -/
theorem txbufReadReturnsValidBytes : Obligations.TxbufReadReturnsValidBytes := by
  intro s k hk
  refine ⟨congrArg CodeWord.bus (descriptor_eq_ofNat ?encoding), fun hf b hr => ?valid, fun _ hv => ?invalid,
    exec_of_fault ⟨_, rfl⟩ nofun⟩
  case encoding => simp [toNat_txOffset]
  case valid => exact congrArg _ (State.hostRead_entry hf (by simp [hk, Memory.valid_of_read hr]) hr)
  case invalid => exact congrArg _ (State.hostRead_refused (by simp [hv]) _)

/-- Settles O17: the write's effect is the store of the low byte, and a store is read back by the rules of the buffers. -/
theorem txbufWriteStoresTheLowByte : Obligations.TxbufWriteStoresTheLowByte := by
  intro s k v hk
  have hexec := exec_wrTxbuf hk v
  refine ⟨congrArg CodeWord.bus (descriptor_eq_ofNat ?encoding), fun hf hb => ?stored, exec_concurrent hexec,
    exec_of_fault ⟨_, rfl⟩ nofun⟩
  case encoding => rw [toNat_txOffset, Bool.toNat_true, one_mul]
  case stored =>
    rw [State.hostWrite_of_idle hf hb] at hexec
    refine ⟨_, hexec, rfl, ⟨lowByte v, ?_, ?_⟩, fun m hm => ?_, fun hw => ?_⟩
    · exact Memory.read_store_same _ _ _
    · exact BitVec.toNat_setWidth 8 v
    · exact Memory.read_store_other _ _ hm.symm
    · exact Memory.wf_store _ _ hw

/-- Settles O18: the read's condition is that BUSY = 0 and the entry is valid. -/
theorem rxbufReadReturnsValidBytes : Obligations.RxbufReadReturnsValidBytes := by
  intro s k hk
  refine ⟨congrArg CodeWord.bus (descriptor_eq_ofNat ?encoding), fun hf hb b hr => ?valid, ?refused⟩
  case encoding => simp [toNat_rxOffset]
  case valid => exact congrArg _ (State.hostRead_entry hf (by simp [hk, hb, Memory.valid_of_read hr]) hr)
  case refused =>
    rintro (hb | hv | hf)
    · exact congrArg _ (State.hostRead_refused (by simp [hb]) _)
    · exact congrArg _ (State.hostRead_refused (by simp [hv]) _)
    · exact exec_of_fault ⟨_, rfl⟩ nofun hf

end

end Sys2Proof.Machine
end

section
/-! INIT (41_initialize.md R201 to R210): its six micro-operations, the run of a whole INIT with the host away and no driver error, a
repeated INIT. O32, O51, O52. -/

namespace Sys2Proof.Machine

/-! ## The directions and levels determine the lines (10_state.md R46) -/

section
variable {α : Type}

theorem mem_of_assocGet {m : List (Nat × α)} {a : Nat} {v : α} (h : assocGet m a = some v) : (a, v) ∈ m := by
  induction m with
  | nil => cases h
  | cons e rest ih =>
    obtain ⟨k, w⟩ := e
    simp only [assocGet] at h
    split_ifs at h with hk
    · cases h
      exact hk ▸ List.mem_cons_self
    · exact List.mem_cons_of_mem _ (ih h)

/-- The first key of a list with rising keys is the least that has a value. -/
theorem le_of_assocGet_isSome {k a : Nat} {w : α} {rest : List (Nat × α)} (hm : assocSorted ((k, w) :: rest) = true)
    (ha : (assocGet ((k, w) :: rest) a).isSome = true) : k ≤ a := by
  by_contra hlt
  simp [assocGet, show k ≠ a by omega, assocGet_of_above hm (show a ≤ k by omega)] at ha

/-- Lists with rising keys are equal when they have the same value at each key. -/
theorem eq_of_assocGet_eq {m m' : List (Nat × α)} (hm : assocSorted m = true) (hm' : assocSorted m' = true)
    (h : ∀ a, assocGet m a = assocGet m' a) : m = m' := by
  induction m generalizing m' with
  | nil =>
    cases m' with
    | nil => rfl
    | cons e' rest' => simpa [assocGet] using h e'.1
  | cons e rest ih =>
    obtain ⟨k, w⟩ := e
    cases m' with
    | nil => simpa [assocGet] using h k
    | cons e' rest' =>
      obtain ⟨k', w'⟩ := e'
      obtain rfl : k = k' := Nat.le_antisymm (le_of_assocGet_isSome hm (by rw [h]; simp [assocGet]))
        (le_of_assocGet_isSome hm' (by rw [← h]; simp [assocGet]))
      obtain rfl : w = w' := by simpa [assocGet] using h k
      have hrest : ∀ a, assocGet rest a = assocGet rest' a := fun a => by
        by_cases ha : k = a
        · rw [assocGet_of_above hm ha.ge, assocGet_of_above hm' ha.ge]
        · simpa [assocGet, ha] using h a
      rw [ih (assocSorted_of_above hm) (assocSorted_of_above hm') hrest]

end

/-- A pin is listed when its line is not as at power-up. -/
theorem Lines.assocGet_of_wf {ls : Lines} (hw : ls.wf = true) (a : Nat) :
    assocGet ls a =
      if a < 4294967296 ∧ ls.read (BitVec.ofNat 32 a) ≠ Line.powerUp then some (ls.read (BitVec.ofNat 32 a)) else none := by
  have hread (ha : a < 4294967296) : ls.read (BitVec.ofNat 32 a) = (assocGet ls a).getD Line.powerUp := by
    rw [Lines.read, BitVec.toNat_ofNat, Nat.mod_eq_of_lt ha]
  cases hg : assocGet ls a with
  | none => exact (if_neg fun ⟨ha, hne⟩ => hne (by rw [hread ha, hg]; rfl)).symm
  | some l =>
    obtain ⟨hl, ha⟩ : l ≠ Line.powerUp ∧ a < 4294967296 := by
      simp only [Lines.wf, Bool.and_eq_true, List.all_eq_true, decide_eq_true_eq] at hw
      exact hw.2 _ (mem_of_assocGet hg)
    rw [hread ha, hg]
    exact (if_pos ⟨ha, hl⟩).symm

theorem State.lines_eq_of_dir_level {s t : State} (hs : s.lines.wf = true) (ht : t.lines.wf = true)
    (hd : ∀ q, t.dir q = s.dir q) (hl : ∀ q, t.level q = s.level q) : t.lines = s.lines := by
  have hread (q : Word) : t.lines.read q = s.lines.read q := congrArg₂ Line.mk (hd q) (hl q)
  refine eq_of_assocGet_eq (Lines.sorted_of_wf ht) (Lines.sorted_of_wf hs) fun a => ?_
  rw [Lines.assocGet_of_wf ht, Lines.assocGet_of_wf hs, hread]

/-! ## The micro-operations of INIT, each request acknowledged -/

/-- `s` after an acknowledged `GpioSetDir(pin, d)` (R46, R47). -/
def State.directed (pin : Word) (d : Dir) (s : State) : State := (s.takeAnswer.setDir pin d.line).record (.setDir pin d)

section
variable {s : State}

@[simp] theorem State.directed_answerAt (pin : Word) (d : Dir) (i : Nat) :
    (s.directed pin d).answerAt i = s.answerAt (i + 1) :=
  s.answerAt_takeAnswer i

@[simp] theorem State.goto_dir (p : BitVec 5) (q : Word) : (s.goto p).dir q = s.dir q := rfl

/-- The end of INIT changes neither the answers nor the lines (R206). -/
@[simp] theorem State.clearBusy_addInited_answerAt (i : Nat) : s.addInited.clearBusy.answerAt i = s.answerAt i := rfl
@[simp] theorem State.clearBusy_addInited_dir (q : Word) : s.addInited.clearBusy.dir q = s.dir q := rfl
@[simp] theorem State.clearBusy_addInited_level (q : Word) : s.addInited.clearBusy.level q = s.level q := rfl

theorem State.directed_lines_wf (pin : Word) (d : Dir) (hw : s.lines.wf = true) : (s.directed pin d).lines.wf = true :=
  Lines.wf_store _ _ hw

theorem State.directed_dir (pin : Word) (d : Dir) (hw : s.lines.wf = true) (q : Word) :
    (s.directed pin d).dir q = if pin = q then d.line else s.dir q :=
  State.dir_setDir (s := s.takeAnswer) _ _ hw q

theorem State.directed_level (pin : Word) (d : Dir) (hw : s.lines.wf = true) (q : Word) :
    (s.directed pin d).level q = s.level q :=
  State.level_setDir (s := s.takeAnswer) _ _ hw q

theorem State.written_dir (pin : Word) (l : Level) (hw : s.lines.wf = true) (q : Word) :
    (s.written pin l).dir q = s.dir q :=
  State.dir_setLevel (s := s.takeAnswer) _ _ hw q

theorem exec_of_ackedSetDir {i : Instr} {pin : Word} {d : Dir} (hr : s.requestOf i = some (gpioSetDir pin d))
    (he : s.nextAnswer.err = false) :
    exec i s = .next (State.afterAck (respond (gpioSetDir pin d) s.nextAnswer) (s.directed pin d) i) := by
  rw [exec_of_requestOf hr, State.gpio_ack _ _ he, State.drive_setDir _ _ he]
  rfl

theorem exec_of_ackedWrite {i : Instr} {pin : Word} {l : Level} (hr : s.requestOf i = some (gpioWrite pin l))
    (he : s.nextAnswer.err = false) :
    exec i s = .next (State.afterAck (respond (gpioWrite pin l) s.nextAnswer) (s.written pin l) i) := by
  rw [exec_of_requestOf hr, State.gpio_ack _ _ he, State.drive_write _ _ he]
  rfl

theorem State.afterSetDir_directed (pin : Word) (d : Dir) (p : BitVec 5) (hw : s.lines.wf = true) :
    s.AfterSetDir pin d p ((s.directed pin d).goto p) :=
  ⟨rfl, State.directed_lines_wf pin d hw, fun q =>
    ⟨(State.directed_dir pin d hw q).trans (if_congr eq_comm rfl rfl), State.directed_level pin d hw q⟩⟩

theorem State.afterWrite_written (pin : Word) (l : Level) (p : BitVec 5) (hw : s.lines.wf = true) :
    s.AfterWrite pin l p ((s.written pin l).goto p) :=
  ⟨rfl, State.written_lines_wf s l pin hw, fun q =>
    ⟨State.written_dir pin l hw q, (State.written_level s l pin hw q).trans (if_congr eq_comm rfl rfl)⟩⟩

theorem State.mem_addInited {p : Port} : p ∈ s.addInited.inited ↔ p ∈ s.inited ∨ p = s.port := by
  rw [State.addInited_inited]
  split_ifs with h
  · exact ⟨.inl, fun hp => hp.elim id fun e => e ▸ h⟩
  · simp

/-- Settles O32: each micro-operation is its acknowledged request, which touches its own pin only, and the next phase. -/
theorem initMicroOperations : Obligations.InitMicroOperations := by
  intro s hw he
  refine ⟨⟨_, exec_of_ackedSetDir rfl he, State.afterSetDir_directed _ _ _ hw⟩,
    ⟨_, exec_of_ackedSetDir rfl he, State.afterSetDir_directed _ _ _ hw⟩,
    ⟨_, exec_of_ackedSetDir rfl he, State.afterSetDir_directed _ _ _ hw⟩,
    ⟨_, exec_of_ackedSetDir rfl he, State.afterSetDir_directed _ _ _ hw⟩,
    ⟨_, exec_of_ackedWrite rfl he, State.afterWrite_written _ _ _ hw⟩,
    ⟨_, exec_of_ackedWrite rfl he, ?last, fun p => ?inited⟩⟩
  case last =>
    exact State.afterWrite_written (s := { s with inited := s.addInited.inited, busy := false }) s.port.clk .high _ hw
  case inited => exact State.mem_addInited (s := s)

end

/-! ## The run of an INIT -/

/-- `s` after the four direction requests of INIT (R201 to R204). -/
def State.pinsDirected (s : State) : State :=
  let u := (s.directed s.port.cs .output).goto Phase.iDirClk
  let v := (u.directed s.port.clk .output).goto Phase.iDirMosi
  let w := (v.directed s.port.mosi .output).goto Phase.iDirMiso
  (w.directed s.port.miso .input).goto Phase.iCsHi

/-- `s` after a whole INIT (R201 to R206). -/
def State.afterInit (s : State) : State :=
  let u := (s.pinsDirected.written s.port.cs .high).goto Phase.iClkHi
  ((u.written s.port.clk .high).addInited.clearBusy).goto Phase.idle

section
variable {s : State}

theorem State.afterInit_trace : s.afterInit.trace = s.trace ++ initEvents s.port := by
  simp [State.afterInit, State.pinsDirected, State.directed, State.written, initEvents]

theorem State.pinsDirected_answerAt (i : Nat) : s.pinsDirected.answerAt i = s.answerAt (i + 4) := by
  simp [State.pinsDirected]

theorem State.afterInit_answerAt (i : Nat) : s.afterInit.answerAt i = s.answerAt (i + 6) := by
  simp [State.afterInit, State.pinsDirected_answerAt]

theorem State.NoDriverError.afterInit {n : Nat} (he : s.NoDriverError (n + 6)) : s.afterInit.NoDriverError n := fun i hi => by
  rw [State.afterInit_answerAt]
  exact he (i + 6) (by omega)

@[simp] theorem State.pinsDirected_inbox : s.pinsDirected.inbox = s.inbox := by
  simp [State.pinsDirected, State.directed]
@[simp] theorem State.pinsDirected_busy : s.pinsDirected.busy = s.busy := by simp [State.pinsDirected, State.directed]
@[simp] theorem State.pinsDirected_fault : s.pinsDirected.fault = s.fault := by simp [State.pinsDirected, State.directed]
@[simp] theorem State.pinsDirected_fcode : s.pinsDirected.fcode = s.fcode := by simp [State.pinsDirected, State.directed]
@[simp] theorem State.pinsDirected_drvReady : s.pinsDirected.drvReady = s.drvReady := by
  simp [State.pinsDirected, State.directed]
@[simp] theorem State.pinsDirected_port : s.pinsDirected.port = s.port := by simp [State.pinsDirected, State.directed]
@[simp] theorem State.pinsDirected_cfgPort : s.pinsDirected.cfgPort = s.cfgPort := by
  simp [State.cfgPort, State.pinsDirected, State.directed]
@[simp] theorem State.pinsDirected_inited : s.pinsDirected.inited = s.inited := by simp [State.pinsDirected, State.directed]

@[simp] theorem State.afterInit_inbox : s.afterInit.inbox = s.inbox := by simp [State.afterInit, State.written]
@[simp] theorem State.afterInit_busy : s.afterInit.busy = false := by simp [State.afterInit]
@[simp] theorem State.afterInit_phase : s.afterInit.phase = Phase.idle := by simp [State.afterInit]
@[simp] theorem State.afterInit_fault : s.afterInit.fault = s.fault := by simp [State.afterInit, State.written]
@[simp] theorem State.afterInit_fcode : s.afterInit.fcode = s.fcode := by simp [State.afterInit, State.written]
@[simp] theorem State.afterInit_drvReady : s.afterInit.drvReady = s.drvReady := by simp [State.afterInit, State.written]
@[simp] theorem State.afterInit_cfgPort : s.afterInit.cfgPort = s.cfgPort := by
  have h := s.pinsDirected_cfgPort
  simpa [State.cfgPort, State.afterInit, State.written] using h
theorem State.afterInit_inited : s.afterInit.inited = s.addInited.inited := by simp [State.afterInit, State.written]

theorem State.mem_afterInit_inited {p : Port} : p ∈ s.afterInit.inited ↔ p ∈ s.inited ∨ p = s.port := by
  rw [State.afterInit_inited, State.mem_addInited]

/-- Only a port that is not in INITED changes INITED (R206, R210). -/
theorem State.afterInit_inited_of_mem (h : s.port ∈ s.inited) : s.afterInit.inited = s.inited :=
  State.afterInit_inited.trans (if_pos h)

/-- Each direction request sets the direction of its own pin (R201 to R204). -/
theorem State.pinsDirected_lines (hw : s.lines.wf = true) :
    s.pinsDirected.lines.wf = true ∧ ∀ q,
      s.pinsDirected.dir q = (if s.port.miso = q then .input else if s.port.mosi = q then .output else
        if s.port.clk = q then .output else if s.port.cs = q then .output else s.dir q) ∧
      s.pinsDirected.level q = s.level q := by
  obtain ⟨-, hw1, h1⟩ := State.afterSetDir_directed s.port.cs .output Phase.iDirClk hw
  obtain ⟨-, hw2, h2⟩ := State.afterSetDir_directed s.port.clk .output Phase.iDirMosi hw1
  obtain ⟨-, hw3, h3⟩ := State.afterSetDir_directed s.port.mosi .output Phase.iDirMiso hw2
  obtain ⟨-, hw4, h4⟩ := State.afterSetDir_directed s.port.miso .input Phase.iCsHi hw3
  refine ⟨hw4, fun q => ?_⟩
  simp [State.pinsDirected, (h4 q).1, (h4 q).2, (h3 q).1, (h3 q).2, (h2 q).1, (h2 q).2, h1 q, Dir.line, eq_comm]

theorem State.afterInit_lines_wf (hw : s.lines.wf = true) : s.afterInit.lines.wf = true := by
  have hw' := State.written_lines_wf s.pinsDirected .high s.port.cs (State.pinsDirected_lines hw).1
  simp [State.afterInit, State.written_lines_wf, hw']

theorem State.afterInit_dir (hw : s.lines.wf = true) (q : Word) :
    s.afterInit.dir q = if s.port.miso = q then .input else if s.port.mosi = q then .output else
      if s.port.clk = q then .output else if s.port.cs = q then .output else s.dir q := by
  obtain ⟨hw', hpins⟩ := State.pinsDirected_lines hw
  rw [← (hpins q).1]
  simp [State.afterInit, State.written_dir, State.written_lines_wf, hw']

/-- The two writes set the levels of chip-select and clock (R205, R206). -/
theorem State.afterInit_level (hw : s.lines.wf = true) (q : Word) :
    s.afterInit.level q = if s.port.clk = q then .high else if s.port.cs = q then .high else s.level q := by
  obtain ⟨hw', hpins⟩ := State.pinsDirected_lines hw
  rw [← (hpins q).2]
  simp [State.afterInit, State.written_level, State.written_lines_wf, hw', Level.line]

/-- A second INIT of the same port finds the directions and levels that it sets (R210). -/
theorem State.afterInit_lines_repeated {u : State} (hw : s.lines.wf = true) (hl : u.lines = s.afterInit.lines)
    (hp : u.port = s.port) : u.afterInit.lines = u.lines := by
  have hwu : u.lines.wf = true := hl ▸ State.afterInit_lines_wf hw
  refine State.lines_eq_of_dir_level hwu (State.afterInit_lines_wf hwu) (fun q => ?dir) (fun q => ?level)
  case dir =>
    have hq : u.dir q = s.afterInit.dir q := by rw [State.dir, hl, State.dir]
    rw [State.afterInit_dir hwu, hq, State.afterInit_dir hw, hp]
    split_ifs <;> rfl
  case level =>
    have hq : u.level q = s.afterInit.level q := by rw [State.level, hl, State.level]
    rw [State.afterInit_level hwu, hq, State.afterInit_level hw, hp]
    split_ifs <;> rfl

section
variable (hq : s.inbox = []) (hb : s.busy = true)
include hq hb

theorem step_of_ackedSetDir {p : BitVec 5} {pin : Word} {d : Dir} (hp : s.phase = p)
    (hr : s.requestOf (decodeSeq p) = some (gpioSetDir pin d)) (he : s.nextAnswer.err = false) :
    step s = .next (State.afterAck (respond (gpioSetDir pin d) s.nextAnswer) (s.directed pin d) (decodeSeq p)) := by
  rw [step_eq_exec_decodeSeq hq hb hp, exec_of_ackedSetDir hr he]

theorem step_iDirCs (hp : s.phase = Phase.iDirCs) (he : s.nextAnswer.err = false) :
    step s = .next ((s.directed s.port.cs .output).goto Phase.iDirClk) :=
  step_of_ackedSetDir hq hb hp rfl he

theorem step_iDirClk (hp : s.phase = Phase.iDirClk) (he : s.nextAnswer.err = false) :
    step s = .next ((s.directed s.port.clk .output).goto Phase.iDirMosi) :=
  step_of_ackedSetDir hq hb hp rfl he

theorem step_iDirMosi (hp : s.phase = Phase.iDirMosi) (he : s.nextAnswer.err = false) :
    step s = .next ((s.directed s.port.mosi .output).goto Phase.iDirMiso) :=
  step_of_ackedSetDir hq hb hp rfl he

theorem step_iDirMiso (hp : s.phase = Phase.iDirMiso) (he : s.nextAnswer.err = false) :
    step s = .next ((s.directed s.port.miso .input).goto Phase.iCsHi) :=
  step_of_ackedSetDir hq hb hp rfl he

theorem step_iCsHi (hp : s.phase = Phase.iCsHi) (he : s.nextAnswer.err = false) :
    step s = .next ((s.written s.port.cs .high).goto Phase.iClkHi) :=
  step_of_ackedWrite hq hb hp rfl he

theorem step_iClkHi (hp : s.phase = Phase.iClkHi) (he : s.nextAnswer.err = false) :
    step s = .next ((s.written s.port.clk .high).addInited.clearBusy.goto Phase.idle) :=
  step_of_ackedWrite hq hb hp rfl he

end

section
variable (hq : s.inbox = []) (hb : s.busy = true) (hp : s.phase = Phase.iDirCs) (he : s.NoDriverError 6)
include hq hb hp he

theorem runSteps_pinsDirected : runSteps 4 s = .next s.pinsDirected := by
  have he' (i : Nat) (hi : i < 6) : (s.answerAt i).err = false := he i hi
  rw [runSteps_succ (step_iDirCs hq hb hp (he 0 (by omega)))]
  rw [runSteps_succ (step_iDirClk (by simpa [State.directed] using hq) (by simpa [State.directed] using hb) (by simp)
    (by simp [State.nextAnswer, he']))]
  rw [runSteps_succ (step_iDirMosi (by simpa [State.directed] using hq) (by simpa [State.directed] using hb) (by simp)
    (by simp [State.nextAnswer, he']))]
  rw [runSteps_succ (step_iDirMiso (by simpa [State.directed] using hq) (by simpa [State.directed] using hb) (by simp)
    (by simp [State.nextAnswer, he']))]
  simp [runSteps, State.pinsDirected, State.directed]

theorem runSteps_afterInit : runSteps 6 s = .next s.afterInit := by
  have he' (i : Nat) (hi : i < 6) : (s.answerAt i).err = false := he i hi
  rw [runSteps_add 2 (runSteps_pinsDirected hq hb hp he)]
  rw [runSteps_succ (step_iCsHi (by simpa using hq) (by simpa using hb) (by simp [State.pinsDirected])
    (by simp [State.nextAnswer, State.pinsDirected_answerAt, he']))]
  rw [runSteps_succ (step_iClkHi (by simpa [State.written] using hq) (by simpa [State.written] using hb) (by simp)
    (by simp [State.nextAnswer, State.pinsDirected_answerAt, he']))]
  simp [runSteps, State.afterInit, State.written]

end

/-- Settles O51: the six steps end in `State.afterInit`; the port's pins are distinct, so no request undoes another's effect. -/
theorem initRunsToIdle : Obligations.InitRunsToIdle := by
  intro s hinv hb hp hq he
  obtain ⟨-, hcsmosi, hcsmiso, hclkmosi, hclkmiso, hmosimiso⟩ := (Port.distinct_iff _).mp (hinv.port_legal hb).1
  have hf := hinv.fault_of_busy hb
  have hstatus : s.afterInit.status = 0 :=
    State.status_eq_zero (s.afterInit_fcode.trans (hinv.fcode_zero hf)) (s.afterInit_fault.trans hf) s.afterInit_busy
  refine ⟨_, runSteps_afterInit hq hb hp he, State.afterInit_trace, hstatus, State.afterInit_phase, ?_⟩
  simp only [State.afterInit_dir hinv.lines_wf, State.afterInit_level hinv.lines_wf]
  refine ⟨?dirCs, ?dirClk, ?dirMosi, ?dirMiso, ?levelCs, ?levelClk, ?levelMosi, ?others, fun _ => State.mem_afterInit_inited⟩
  case others =>
    intro q hcs hclk hmosi hmiso
    simp [hcs.symm, hclk.symm, hmosi.symm, hmiso.symm]
  all_goals simp [hcsmosi, hcsmiso.symm, hclkmosi, hclkmosi.symm, hclkmiso.symm, hmosimiso.symm]

/-- INIT issued for a legal port, when the block idles and the driver is ready (R200), and run to its end. -/
theorem exec_init_runSteps (hf : s.fault = false) (hb : s.busy = false) (hr : s.drvReady = true) (hq : s.inbox = [])
    (hd : s.cfgPort.distinct = true) (hs : s.cfgPort.speedOk = true) (he : s.NoDriverError 6) :
    ∃ u, exec .init s = .next u ∧ runSteps 6 u = .next u.afterInit ∧
      u.port = s.cfgPort ∧ u.trace = s.trace ∧ u.lines = s.lines ∧ u.inited = s.inited := by
  refine ⟨s.acceptInit.reply .done, ?_, runSteps_afterInit hq rfl rfl he, rfl, rfl, rfl, rfl⟩
  rw [exec_init_of_idle hf hb, State.command_init, State.portFault_eq_none hr hd hs]

/-- Settles O52: the second INIT is accepted, for the port that the registers still hold, and it runs as the first did. -/
theorem repeatedInitIsIdempotent : Obligations.RepeatedInitIsIdempotent := by
  intro s hinv hb hp hq hr he
  obtain ⟨hdistinct, hspeed⟩ := hinv.port_legal hb
  have hcfg : s.afterInit.cfgPort = s.port := s.afterInit_cfgPort.trans (hinv.latch hb).symm
  obtain ⟨u, haccept, hrun, hport, htrace, hlines, hinited⟩ :=
    exec_init_runSteps (s.afterInit_fault.trans (hinv.fault_of_busy hb)) s.afterInit_busy (s.afterInit_drvReady.trans hr)
      (s.afterInit_inbox.trans hq) (by rwa [hcfg]) (by rwa [hcfg]) (State.NoDriverError.afterInit he)
  have hport : u.port = s.port := hport.trans hcfg
  refine ⟨_, u, _, runSteps_afterInit hq hb hp fun i hi => he i (by omega), haccept, hrun, ?trace, ?lines, ?inited⟩
  case trace => rw [State.afterInit_trace, htrace, hport]
  case lines => exact (State.afterInit_lines_repeated hinv.lines_wf hlines hport).trans hlines
  case inited =>
    have hmem : u.port ∈ u.inited := by
      rw [hinited, hport]
      exact State.mem_afterInit_inited.mpr (.inr rfl)
    exact (State.afterInit_inited_of_mem hmem).trans hinited

end

end Sys2Proof.Machine
end

section
/-! XFER (42_transfer.md R230 to R250): its acceptance and its micro-operations one by one. O24, O33 to O38, O50. -/

namespace Sys2Proof.Machine

section
variable {s : State}

/-! ## Acceptance (R230) -/

theorem State.transferFault_eq_none (hn : s.len.toNat ≤ s.bufBytes) (hv : s.tx.validBelow s.len.toNat = true)
    (hi : s.initialized = true) : s.transferFault = none := by
  simp [State.transferFault, hn, hv, hi]

theorem State.command_xfer_of_checked (hp : s.portFault = none) (hx : s.transferFault = none) :
    s.command CmdOp.xfer.word = s.acceptXfer := by
  simp [State.command, State.commandFault, hp, hx]

/-- With FAULT = 0 and BUSY = 0, an XFER that passes every check is accepted (R166). -/
theorem exec_xfer_of_checked (hf : s.fault = false) (hb : s.busy = false) (hp : s.portFault = none)
    (hx : s.transferFault = none) : exec .xfer s = .next (s.acceptXfer.reply .done) := by
  change Host.Outcome.next (s.hostWrite (State.command CmdOp.xfer.word)) = _
  rw [State.hostWrite_of_idle hf hb, State.command_xfer_of_checked hp hx]

/-- Settles O24: the conditions are the checks of R166, and the half-period latched is the quotient, which fits HALF. -/
theorem xferIsAccepted : Obligations.XferIsAccepted := by
  intro s hf hb hr h1 h2 h3 h4 h5 h6 hs hn hv hin hcs hclk hmosi hmiso
  have hp := State.portFault_eq_none hr ((Port.distinct_iff _).mpr ⟨h1, h2, h3, h4, h5, h6⟩) ((Port.speedOk_iff _).mpr hs)
  have hx := State.transferFault_eq_none hn ((Memory.validBelow_iff _ _).mpr hv)
    (s.initialized_iff.mpr ⟨hin, hcs, hclk, hmosi, hmiso⟩)
  refine ⟨_, exec_xfer_of_checked hf hb hp hx, rfl, ?half, Memory.valid_nil⟩
  exact (congrArg Nat.cast (toNat_ofNat_halfPeriod le_rfl s.cfgSpeed)).trans (halfPeriod_eq_ediv _ hs)

/-! ## Bits -/

theorem lvl_outBit (o : Byte) : lvl (outBit o) = if o.getLsbD 7 then .high else .low := by
  rw [← Level.ofVal_val (lvl (outBit o)), val_lvl_outBit, Level.ofVal]

/-- Bit position `i` in serial order is bit 7 - i of the byte (R243). -/
theorem serialBit_eq (b : Byte) (i : Nat) : serialBit b i = if b.getLsbD (7 - i) then 1 else 0 := by
  have h : (b >>> (7 - i)).getLsbD 0 = b.getLsbD (7 - i) := BitVec.getLsbD_ushiftRight b (7 - i) 0
  change b >>> (7 - i) &&& 1#8 = _
  rw [BitVec.and_one_eq_setWidth_ofBool_getLsbD, h]
  cases b.getLsbD (7 - i) <;> rfl

theorem iterate_shiftOut (b : Byte) (i : Nat) : shiftOut^[i] b = b <<< i := by
  induction i with
  | zero => simp
  | succ i ih => rw [Function.iterate_succ_apply', ih, shiftOut, ← BitVec.shiftLeft_add]

theorem toNat_shiftOut (b : Byte) : (shiftOut b).toNat = 2 * b.toNat % 256 := by
  simp [shiftOut, Nat.shiftLeft_eq, Nat.mul_comm]

theorem toNat_shiftIn (x : Byte) (l : Level) : (shiftIn x l).toNat = (2 * x.toNat + (bit l).toNat) % 256 := by
  cases l <;> revert x <;> decide

theorem toNat_bit (l : Level) : (bit l).toNat = if l = .high then 1 else 0 := by
  cases l <;> rfl

/-- Settles O50: the bit on mosi is the bit of the byte in serial order. -/
theorem shiftsSendMostSignificantFirst : Obligations.ShiftsSendMostSignificantFirst := by
  intro b i hi
  have h := outBit_iterate_shiftOut b hi
  refine ⟨h, ?_⟩
  rw [h, serialBit_eq]
  cases b.getLsbD (7 - i) <;> rfl

/-! ## The micro-operations with a request (R231, R233, R234, R236, R237, R241) -/

/-- Settles O33: each micro-operation is its acknowledged write, which touches its own pin only, and the next phase. -/
theorem xferPinWrites : Obligations.XferPinWrites := by
  intro s hw he
  refine ⟨⟨_, exec_of_ackedWrite rfl he, State.afterWrite_written _ _ _ hw⟩,
    ⟨_, exec_of_ackedWrite rfl he, State.afterWrite_written _ _ _ hw⟩,
    ⟨_, exec_of_ackedWrite rfl he, ?mosi⟩,
    ⟨_, exec_of_ackedWrite rfl he, State.afterWrite_written _ _ _ hw⟩,
    ⟨_, exec_of_ackedWrite rfl he, State.afterWrite_written (s := { s with busy := false }) _ _ _ hw⟩⟩
  case mosi =>
    rw [← lvl_outBit]
    exact State.afterWrite_written _ _ _ hw

theorem exec_xSample_of_acked (he : s.nextAnswer.err = false) : exec .xSample s = .next (s.sampledIn s.nextAnswer.lvl) := by
  have hr : s.requestOf .xSample = some (gpioRead s.port.miso) := rfl
  rw [exec_of_requestOf hr, State.gpio_ack _ _ he, State.drive_read _ he]
  change Host.Outcome.next (State.goto Phase.xHold2 { s.takeAnswer.record _ with insr := shiftIn s.insr _ }) = _
  rw [respond_read _ _ he]
  rfl

theorem State.sampledIn_insr (l : Level) : (s.sampledIn l).insr = shiftIn s.insr l := rfl

/-- Settles O34: the level is the answer's, and shifting it in is doubling INSR and adding its bit, modulo 256. -/
theorem sampleShiftsTheLevelIn : Obligations.SampleShiftsTheLevelIn := by
  intro s he
  refine ⟨_, exec_xSample_of_acked he, rfl, ?_⟩
  rw [← toNat_bit, State.sampledIn_insr, toNat_shiftIn]

/-! ## The micro-operations without a request (R232, R235, R238 to R240) -/

theorem State.holdHalf_eq (s : State) (p : BitVec 5) :
    s.holdHalf p = { s with timer := 0, trace := s.trace ++ [.hold s.half.toNat], phase := p } := by
  simp only [State.holdHalf, State.goto, State.record, State.timerExpire, State.timerLoad]

/-- Settles O35: both Holds are `State.holdHalf`, which asks for no answer of the pin driver. -/
theorem holdsOnlyAdvance : Obligations.HoldsOnlyAdvance := fun s =>
  ⟨congrArg Host.Outcome.next (s.holdHalf_eq Phase.xClkHi), congrArg Host.Outcome.next (s.holdHalf_eq Phase.xShift)⟩

/-- Settles O36: the byte is that of the entry J, and the free value when the entry holds none. -/
theorem loadTakesTheByte : Obligations.LoadTakesTheByte := by
  intro s
  refine ⟨s.txByte, rfl, fun c hc => ?_⟩
  rw [State.txByte, hc, Option.getD_some]

/-- Settles O37: BITN counts to 8 from 7 only, and a byte shifted by its width is 0. -/
theorem shiftExposesTheNextBit : Obligations.ShiftExposesTheNextBit := by
  intro s
  have hlast : s.bitn + 1 = 8 ↔ s.bitn.toNat = 7 := by
    constructor <;> intro h <;> bv_omega
  refine ⟨shiftOut s.outsr, toNat_shiftOut _, ?next, ?zero⟩
  case next =>
    change Host.Outcome.next s.shifted = _
    simp only [State.shifted, hlast]
    rfl
  case zero => exact (iterate_shiftOut _ 8).trans (BitVec.shiftLeft_eq_zero le_rfl)

/-- Settles O38: by the rules of a store in a buffer. -/
theorem storePutsTheByte : Obligations.StorePutsTheByte := fun s =>
  ⟨s.storedByte, rfl, rfl, Memory.read_store_same _ _ _, fun _ hm => Memory.read_store_other _ _ hm.symm, Memory.wf_store _ _⟩

end

end Sys2Proof.Machine
end

section
/-! A whole XFER (42_transfer.md R242 to R249): the entries received, and the lines, which the events of the trace determine
(10_state.md R46, R47). O54, O55, O56. -/

namespace Sys2Proof.Machine

/-! ## The lines, from the trace -/

theorem Lines.read_store {ls : Lines} (pin : Word) (l : Line) (h : ls.wf = true) (q : Word) :
    (ls.store pin l).read q = if pin = q then l else ls.read q := by
  split_ifs with hq
  · exact hq ▸ Lines.read_store_same pin l h
  · exact Lines.read_store_other ls l hq

/-- The line of the pin `q` after an event, when it was `l` before (R46, R47). -/
def Event.lineAfter (q : Word) (l : Line) : Event → Line
  | .setDir pin d => if pin = q then { l with dir := d.line } else l
  | .write pin v => if pin = q then { l with lvl := v.line } else l
  | .read _ _ => l
  | .hold _ => l
  | .fault _ => l

/-- The trace of `t` is that of `s` and the events `es`, and the lines of `t` are those that `es` leaves, if no fault is among them: a
failed request has no event of its own (log 12). -/
def State.LinesFollow (s : State) (es : List Event) (t : State) : Prop :=
  t.trace = s.trace ++ es ∧
    ((∀ c, Event.fault c ∉ es) → ∀ q, t.lines.read q = es.foldl (Event.lineAfter q) (s.lines.read q))

section
variable {s t u : State} {es es' : List Event}

theorem State.LinesFollow.trans (h : s.LinesFollow es t) (h' : t.LinesFollow es' u) : s.LinesFollow (es ++ es') u := by
  obtain ⟨htrace, hlines⟩ := h
  obtain ⟨htrace', hlines'⟩ := h'
  refine ⟨by rw [htrace', htrace, List.append_assoc], fun hno q => ?_⟩
  rw [hlines' (fun c hc => hno c (List.mem_append_right _ hc)), hlines (fun c hc => hno c (List.mem_append_left _ hc)),
    List.foldl_append]

theorem State.LinesFollow.of_lines_eq (ht : t.trace = s.trace) (hl : t.lines = s.lines) : s.LinesFollow [] t :=
  ⟨by rw [ht, List.append_nil], fun _ _ => by rw [hl]; rfl⟩

/-- What a request leaves of the lines and the trace, when it is acknowledged (R46, R47). -/
theorem State.linesFollow_drive (r : GpioRequest) (hw : s.lines.wf = true) (he : s.nextAnswer.err = false) :
    ∃ es, s.LinesFollow es (s.drive r) := by
  obtain ⟨he', -⟩ | ⟨-, d, e⟩ | ⟨-, l, e⟩ | ⟨-, l, e⟩ := s.drive_cases r
  case inl => exact absurd he' (by simp [he])
  all_goals rw [e]; refine ⟨_, rfl, fun _ q => ?_⟩
  case inr.inr.inr => rfl
  all_goals
    refine (Lines.read_store _ _ hw q).trans (if_ctx_congr Iff.rfl (fun hq => ?_) fun _ => rfl)
    rw [← hq]
    rfl

theorem State.MicroStep.linesFollow {i : Instr} (h : s.MicroStep i t) (hw : s.lines.wf = true) :
    ∃ es, s.LinesFollow es t := by
  cases h with
  | @failed _ r hr he =>
    obtain ⟨es, h⟩ := s.drive_trace_extends r
    refine ⟨es ++ [.fault .driverError], by simp [h], fun hno => ?_⟩
    exact absurd (List.mem_append_right _ (List.mem_singleton_self _)) (hno .driverError)
  | @acked _ r hr he =>
    obtain ⟨es, h⟩ := s.linesFollow_drive r hw he
    obtain ⟨p, b, l, x, e, -⟩ := (s.drive r).afterAck_eq (respond r s.nextAnswer) i
    exact ⟨es, by rw [e]; exact h⟩
  | hold1 | hold2 => exact ⟨_, State.holdHalf_trace _ _, fun _ q => by rw [State.holdHalf_lines]; rfl⟩
  | idle | load | shift | store => exact ⟨[], .of_lines_eq rfl rfl⟩

/-- With the host away, a step is the micro-operation at PHASE, and the host stays away. -/
theorem State.microStep_of_quiet (hq : s.inbox = []) (h : step s = .next t) : s.MicroStep s.microOp t ∧ t.inbox = [] := by
  have hi : isSequencer s.microOp := by
    unfold State.microOp
    split_ifs
    · exact isSequencer_decodeSeq _
    · exact ⟨_, rfl⟩
  rw [step_microOp_of_quiet hq] at h
  have hinbox : t.inbox = s.inbox := by
    obtain ⟨-, -, -, -, -, -, -, -, hinbox, -⟩ := microOperationFrame _ s t hi h
    exact hinbox
  exact ⟨State.microStep_of_exec hi h, hinbox.trans hq⟩

/-- With the host away, the lines after a run are those that the events of its trace leave. -/
theorem State.linesFollow_of_runSteps {n : Nat} (h : s.Inv) (hq : s.inbox = []) (hr : runSteps n s = .next t) :
    ∃ es, s.LinesFollow es t := by
  induction n generalizing s with
  | zero =>
    cases hr
    exact ⟨[], .of_lines_eq rfl rfl⟩
  | succ n ih =>
    cases hs : step s with
    | next u =>
      obtain ⟨hm, hu⟩ := State.microStep_of_quiet hq hs
      obtain ⟨es, hes⟩ := hm.linesFollow h.lines_wf
      obtain ⟨es', hes'⟩ := ih (h.step hs) hu (runSteps_succ hs ▸ hr)
      exact ⟨es ++ es', hes.trans hes'⟩
    | fault r => simp [runSteps, hs] at hr
    | refused r => simp [runSteps, hs] at hr

/-! ## The lines that the events of a transfer leave -/

/-- The line of `q` after the events of bits on the port `p`: clock is high, mosi has the level `v` of the last bit. -/
def Line.afterBits (p : Port) (v : LineLevel) (q : Word) (l : Line) : Line :=
  { l with lvl := if p.clk = q then .high else if p.mosi = q then v else l.lvl }

theorem Line.afterBits_afterBits (p : Port) (v w : LineLevel) (q : Word) (l : Line) :
    (l.afterBits p v q).afterBits p w q = l.afterBits p w q := by
  unfold Line.afterBits
  split_ifs <;> rfl

section
variable (p : Port) (h : Nat) (q : Word) (l : Line)

/-- The last writes of a bit are the bit on mosi and the rising edge on clock (R242). -/
theorem foldl_lineAfter_bitEvents (b : Byte) (v : Level) :
    (bitEvents p h b v).foldl (Event.lineAfter q) l = l.afterBits p (lvl b).line q := by
  simp only [bitEvents, List.foldl_cons, List.foldl_nil, Event.lineAfter, Line.afterBits]
  split_ifs <;> rfl

/-- Of a sequence of bits, or of bytes, the last determines the lines. -/
theorem foldl_lineAfter_range_succ {f : Nat → List Event} {v : Nat → LineLevel}
    (hf : ∀ i l, (f i).foldl (Event.lineAfter q) l = l.afterBits p (v i) q) (n : Nat) :
    ((List.range (n + 1)).flatMap f).foldl (Event.lineAfter q) l = l.afterBits p (v n) q := by
  induction n with
  | zero => simpa using hf 0 l
  | succ n ih =>
    rw [List.range_succ, List.flatMap_append, List.foldl_append, ih, List.flatMap_singleton, hf, Line.afterBits_afterBits]

theorem foldl_lineAfter_byteEvents (b : Byte) (ls : Nat → Level) :
    (byteEvents p h b ls).foldl (Event.lineAfter q) l = l.afterBits p (lvl (serialBit b 7)).line q :=
  foldl_lineAfter_range_succ p q l (v := fun i => (lvl (serialBit b i)).line)
    (fun _ l => foldl_lineAfter_bitEvents p h q l _ _) 7

/-- Bit 0 of a byte is the last sent (R243). -/
theorem line_lvl_serialBit_seven (b : Byte) : (lvl (serialBit b 7)).line = if b.getLsbD 0 then .high else .low := by
  rw [serialBit_eq]
  cases b.getLsbD 0 <;> rfl

/-- The empty transfer leaves chip-select high and every other line as it was (R248). -/
theorem foldl_lineAfter_transferEvents_zero (bytes : Nat → Byte) (ls : Nat → Nat → Level) :
    (transferEvents p h 0 bytes ls).foldl (Event.lineAfter q) l = if p.cs = q then { l with lvl := .high } else l := by
  simp only [transferEvents, List.range_zero, List.flatMap_nil, List.cons_append, List.nil_append, List.foldl_cons,
    List.foldl_nil, Event.lineAfter]
  split_ifs <;> rfl

/-- A transfer with bytes to send leaves chip-select high, and the other lines as its last bit leaves them (R249). -/
theorem foldl_lineAfter_transferEvents_succ (n : Nat) (bytes : Nat → Byte) (ls : Nat → Nat → Level) :
    (transferEvents p h (n + 1) bytes ls).foldl (Event.lineAfter q) l =
      if p.cs = q then { l with lvl := .high } else l.afterBits p (lvl (serialBit (bytes n) 7)).line q := by
  have hbytes := fun l => foldl_lineAfter_range_succ p q l (v := fun j => (lvl (serialBit (bytes j) 7)).line)
    (fun j l => foldl_lineAfter_byteEvents p h q l (bytes j) (ls j)) n
  simp only [transferEvents, List.cons_append, List.foldl_cons, List.foldl_append, List.foldl_nil, hbytes, Event.lineAfter]
  split_ifs <;> rfl

/-- No event of a transfer sets a direction (R249). -/
theorem foldl_lineAfter_transferEvents_dir (n : Nat) (bytes : Nat → Byte) (ls : Nat → Nat → Level) :
    ((transferEvents p h n bytes ls).foldl (Event.lineAfter q) l).dir = l.dir := by
  cases n with
  | zero => rw [foldl_lineAfter_transferEvents_zero]; split_ifs <;> rfl
  | succ n => rw [foldl_lineAfter_transferEvents_succ]; split_ifs <;> rfl

theorem fault_notMem_transferEvents (n : Nat) (bytes : Nat → Byte) (ls : Nat → Nat → Level) (c : FaultCode) :
    Event.fault c ∉ transferEvents p h n bytes ls := by
  simp [transferEvents, byteEvents, bitEvents]

end

/-! ## The end of an XFER -/

/-- Before X_CS_HI every byte is stored, and X_CS_HI touches no buffer (R241). -/
theorem State.XferStart.run_buffers {n : Nat} (h : s.XferStart n) (he : s.NoDriverError (2 + 32 * n)) :
    ∃ t u, s.AtByte n n t ∧ runSteps (2 + 58 * n) s = .next u ∧ u.tx = t.tx ∧ u.rx = t.rx := by
  obtain ⟨t, hrun, ht⟩ := h.atByte he (le_refl n)
  have hack : t.nextAnswer.err = false := by
    rw [State.nextAnswer, ht.answers]
    exact he _ (by omega)
  have hend := runSteps_add_one hrun (step_xCsHi ht.quiet ht.busy (ht.phase.trans (if_pos rfl)) hack)
  rw [show 1 + 58 * n + 1 = 2 + 58 * n by omega] at hend
  exact ⟨t, _, ht, hend, by simp [State.written], by simp [State.written]⟩

/-- The lines at the end are those that the events of the transfer leave. -/
theorem State.XferStart.run_lines {n : Nat} (h : s.XferStart n) (he : s.NoDriverError (2 + 32 * n)) :
    ∃ t, runSteps (2 + 58 * n) s = .next t ∧ ∀ q, t.lines.read q =
      (transferEvents s.port s.half.toNat n (fun j => (s.tx.read j).getD 0) s.sampled).foldl (Event.lineAfter q)
        (s.lines.read q) := by
  obtain ⟨t, hrun, -, -, -, htrace⟩ := xferRunAppendsItsTrace s n h he
  obtain ⟨es, hes, hlines⟩ := State.linesFollow_of_runSteps h.inv h.quiet hrun
  obtain rfl := List.append_cancel_left (hes.symm.trans htrace)
  exact ⟨t, hrun, hlines (fault_notMem_transferEvents _ _ _ _ _)⟩

/-! ## The entries received (R245, R247) -/

theorem toNat_bit_le (l : Level) : (bit l).toNat ≤ 1 := by
  cases l <;> decide

theorem toNat_shiftedIn_lt (ls : Nat → Level) (i : Nat) : (shiftedIn ls i).toNat < 2 ^ i := by
  induction i with
  | zero => simp [shiftedIn]
  | succ i ih =>
    have := toNat_bit_le (ls i)
    rw [shiftedIn, toNat_shiftIn, pow_succ]
    omega

/-- The first eight levels are shifted in without loss. -/
theorem toNat_shiftedIn_succ (ls : Nat → Level) {i : Nat} (hi : i < 8) :
    (shiftedIn ls (i + 1)).toNat = 2 * (shiftedIn ls i).toNat + (bit (ls i)).toNat := by
  have hlt := toNat_shiftedIn_lt ls i
  have hpow : 2 ^ i ≤ 2 ^ 7 := Nat.pow_le_pow_right (by norm_num) (by omega)
  have hbit := toNat_bit_le (ls i)
  rw [shiftedIn, toNat_shiftIn, Nat.mod_eq_of_lt (by omega)]

/-- A byte is the sum of its samples, the first the most significant (R245). -/
theorem toNat_shiftedIn (ls : Nat → Level) : (shiftedIn ls 8).toNat = receivedByte ls := by
  have hsum : ∀ i ≤ 8, (shiftedIn ls i).toNat * 2 ^ (8 - i) =
      ((List.range i).map fun k => (bit (ls k)).toNat * 2 ^ (7 - k)).sum := by
    intro i hi
    induction i with
    | zero => simp [shiftedIn]
    | succ i ih =>
      rw [List.range_succ, List.map_append, List.sum_append, ← ih (by omega), List.map_singleton, List.sum_singleton,
        toNat_shiftedIn_succ ls (by omega), show 8 - i = 7 - i + 1 by omega, show 8 - (i + 1) = 7 - i by omega, pow_succ]
      ring
  simpa [receivedByte] using hsum 8 le_rfl

/-! ## The obligations about the end of an XFER -/

/-- Settles O54: at the end of the loop the valid entries are those below J, which has counted to n; X_CS_HI touches no buffer. -/
theorem xferRunStoresTheSampledBytes : Obligations.XferRunStoresTheSampledBytes := by
  intro s n h he
  obtain ⟨t, u, ht, hrun, htx, hrx⟩ := h.run_buffers he
  refine ⟨u, hrun, htx.trans ht.tx, ?_⟩
  rw [hrx]
  refine ⟨fun j hj => ⟨_, ht.received j hj, toNat_shiftedIn _⟩, fun k hk => ?_⟩
  have hphase : t.phase = Phase.xCsHi := ht.phase.trans (if_pos rfl)
  have hstored := ht.inv.xfer_stored ht.busy (by rw [hphase]; decide) k
  rw [ht.index] at hstored
  exact Bool.eq_false_iff.mpr fun hv => not_lt.mpr hk (hstored.mp hv)

/-- Settles O55: from the events of the trace; no pin of the port is another, so chip-select's writes leave the other lines. -/
theorem xferRunLeavesTheLinesIdle : Obligations.XferRunLeavesTheLinesIdle := by
  intro s n h he
  obtain ⟨t, hrun, hlines⟩ := h.run_lines he
  obtain ⟨hcsclk, hcsmosi, -, hclkmosi, -⟩ := (Port.distinct_iff _).mp (h.inv.port_legal h.busy).1
  have hdir (q : Word) : t.dir q = s.dir q := by
    rw [State.dir, hlines, foldl_lineAfter_transferEvents_dir, State.dir]
  refine ⟨t, hrun, ?_⟩
  cases n with
  | zero =>
    have hlevel (q : Word) : t.level q = if s.port.cs = q then .high else s.level q := by
      rw [State.level, hlines, foldl_lineAfter_transferEvents_zero]
      split_ifs <;> rfl
    exact ⟨(hlevel _).trans (if_pos rfl), nofun, fun _ => (hlevel _).trans (if_neg hcsclk), nofun,
      fun _ => (hlevel _).trans (if_neg hcsmosi), hdir, fun q hcs _ _ => (hlevel q).trans (if_neg hcs.symm)⟩
  | succ m =>
    have hlevel (q : Word) : t.level q = if s.port.cs = q then .high else if s.port.clk = q then .high else
        if s.port.mosi = q then (lvl (serialBit ((s.tx.read m).getD 0) 7)).line else s.level q := by
      rw [State.level, hlines, foldl_lineAfter_transferEvents_succ, Line.afterBits]
      split_ifs <;> rfl
    refine ⟨(hlevel _).trans (if_pos rfl), fun _ => ?clk, nofun, fun k b hk hb => ?mosi, nofun, hdir,
      fun q hcs hclk hmosi => ?others⟩
    case clk => rw [hlevel, if_neg hcsclk, if_pos rfl]
    case mosi =>
      obtain rfl := Nat.succ.inj hk
      rw [hlevel, if_neg hcsmosi, if_neg hclkmosi, if_pos rfl, hb, Option.getD_some, line_lvl_serialBit_seven]
    case others => rw [hlevel, if_neg hcs.symm, if_neg hclk.symm, if_neg hmosi.symm]

/-- Settles O56: the trace of no byte, and no entry received. -/
theorem emptyTransferPulsesChipSelect : Obligations.EmptyTransferPulsesChipSelect := by
  intro s h he
  obtain ⟨t, hrun, hinv, hb, -, htrace, -⟩ := h.run he
  obtain ⟨u, hrun', -, -, hinvalid⟩ := xferRunStoresTheSampledBytes s 0 h he
  obtain rfl : t = u := Host.Outcome.next.inj (hrun.symm.trans hrun')
  refine ⟨t, hrun, ?_, hb, hinv.phase_idle hb, fun k => hinvalid k (Nat.zero_le k)⟩
  rw [htrace, List.append_assoc]
  rfl

end

end Sys2Proof.Machine
end

section
/-! The half-period, the timer's load value, and what the timed readings of a transfer's trace keep (43_timing.md R280 to R287).
O48, O49, O59, O60. -/

namespace Sys2Proof.Machine

/-! ## The half-period and the timer -/

/-- Settles O48: the half-period is a quotient of naturals (R280), which is 0 when the divisor is the larger. -/
theorem halfPeriodRange : Obligations.HalfPeriodRange := by
  intro v hv
  have hquot := halfPeriod_eq_ediv v hv
  have hle := halfPeriod_le v
  refine ⟨hquot, hle, by omega, ?_⟩
  calc halfPeriod v = 0 ↔ 500000000 / v.toInt < 1 := by omega
    _ ↔ 500000000 < v.toInt := by rw [Int.ediv_lt_iff_lt_mul hv, one_mul]

theorem Params.tickNs_pos (p : Params) : 0 < p.tickNs := Nat.succ_pos _

/-- The load value of a hold that lasts is the rounded-up quotient and the tick for the partial one (R284). -/
theorem holdTicks_of_pos (p : Params) {h : Nat} (hh : 0 < h) : holdTicks p h = h ⌈/⌉ p.tickNs + 1 := by
  rw [holdTicks, if_neg hh.ne', Nat.ceilDiv_eq_add_pred_div]

/-- Settles O49: by the defining property of the rounded-up quotient, the least number of ticks that covers the hold. -/
theorem timerLoadCoversTheHold : Obligations.TimerLoadCoversTheHold := by
  refine fun p h => ⟨rfl, fun hh => ?_⟩
  have hcovers (c : Nat) : h ⌈/⌉ p.tickNs ≤ c ↔ h ≤ c * p.tickNs := by
    rw [ceilDiv_le_iff_le_mul p.tickNs_pos, mul_comm]
  have hpos : 0 < h ⌈/⌉ p.tickNs := by
    by_contra hzero
    have := (hcovers 0).mp (by omega)
    omega
  rw [holdTicks_of_pos p hh]
  refine ⟨by omega, (hcovers _).mp le_rfl, lt_of_not_ge fun hle => ?_⟩
  have := (hcovers _).mpr hle
  omega

/-! ## Timed readings (R285) -/

section
variable {tr : List Event} {τ : Nat → ℚ}

theorem holdNs_of_hold {k d : Nat} (hk : tr[k]? = some (.hold d)) : holdNs tr k = d := by
  simp [holdNs, hk]

theorem TimedReading.mono (ht : TimedReading tr τ) {i j : Nat} (hij : i ≤ j) (hj : j < tr.length) : τ i ≤ τ j := by
  induction j, hij using Nat.le_induction with
  | base => exact le_rfl
  | succ j _ ih => exact (ih (by omega)).trans ((ht j (by omega)).1 hj)

/-- The events before a hold and the events after it are at least its length apart. -/
theorem TimedReading.add_hold_le (ht : TimedReading tr τ) {i k j d : Nat} (hk : tr[k]? = some (.hold d)) (hik : i < k)
    (hkj : k < j) (hj : j < tr.length) : τ i + d ≤ τ j := by
  have hhold := (ht k (by omega)).2 (by omega) (by omega)
  rw [holdNs_of_hold hk] at hhold
  have hbefore := ht.mono (show i ≤ k - 1 by omega) (by omega)
  have hafter := ht.mono (show k + 1 ≤ j by omega) hj
  linarith

end

/-! ## The positions of a transfer's events (R242) -/

/-- In the concatenation of lists of the same length `c`, item `r` of list `i` stands at `c * i + r`. -/
theorem getElem?_flatMap_range {α : Type} {f : Nat → List α} {c n i r : Nat} (hf : ∀ i, (f i).length = c) (hi : i < n)
    (hr : r < c) : ((List.range n).flatMap f)[c * i + r]? = (f i)[r]? := by
  have hlen (n : Nat) : ((List.range n).flatMap f).length = c * n := by simp [hf, mul_comm]
  induction n with
  | zero => omega
  | succ n ih =>
    rw [List.range_succ, List.flatMap_append, List.flatMap_singleton]
    obtain hlt | rfl := Nat.lt_succ_iff_lt_or_eq.mp hi
    · have : c * (i + 1) ≤ c * n := Nat.mul_le_mul_left c hlt
      rw [List.getElem?_append_left (by rw [hlen]; lia), ih hlt]
    · rw [List.getElem?_append_right (by rw [hlen]; omega), hlen, Nat.add_sub_cancel_left]

section
variable (p : Port) (h n : Nat) (bytes : Nat → Byte) (ls : Nat → Nat → Level)

theorem byteEvents_length (b : Byte) (l : Nat → Level) : (byteEvents p h b l).length = 48 := rfl

theorem transferEvents_csLow : (transferEvents p h n bytes ls)[0]? = some (.write p.cs .low) := rfl

theorem transferEvents_csHigh : (transferEvents p h n bytes ls)[1 + 48 * n]? = some (.write p.cs .high) := by
  have hlen := transferEvents_length p h n bytes ls
  rw [show 1 + 48 * n = (transferEvents p h n bytes ls).length - 1 by omega, ← List.getLast?_eq_getElem?]
  exact List.getLast?_concat

/-- Bit `m` of the transfer is bit `m % 8` of byte `m / 8`; its six events stand after chip-select low and `m` bits. -/
theorem transferEvents_bit {m r : Nat} (hm : m < 8 * n) (hr : r < 6) :
    (transferEvents p h n bytes ls)[1 + r + 6 * m]? =
      (bitEvents p h (serialBit (bytes (m / 8)) (m % 8)) (ls (m / 8) (m % 8)))[r]? := by
  have hpos : 1 + r + 6 * m = 48 * (m / 8) + (6 * (m % 8) + r) + 1 := by omega
  have hlen : ((List.range n).flatMap fun j => byteEvents p h (bytes j) (ls j)).length = 48 * n := by
    simp [byteEvents_length, mul_comm]
  rw [hpos, transferEvents, List.cons_append, List.getElem?_cons_succ, List.getElem?_append_left (by rw [hlen]; omega),
    getElem?_flatMap_range (fun j => byteEvents_length p h _ _) (by omega) (by omega), byteEvents,
    getElem?_flatMap_range (fun i => bitEvents_length p h _ _) (Nat.mod_lt _ (by norm_num)) hr]

theorem transferEvents_hold1 {m : Nat} (hm : m < 8 * n) : (transferEvents p h n bytes ls)[3 + 6 * m]? = some (.hold h) :=
  transferEvents_bit p h n bytes ls hm (r := 2) (by norm_num)

theorem transferEvents_hold2 {m : Nat} (hm : m < 8 * n) : (transferEvents p h n bytes ls)[6 + 6 * m]? = some (.hold h) :=
  transferEvents_bit p h n bytes ls hm (r := 5) (by norm_num)

/-! ## The timing of a transfer (R286, R287) -/

variable {p h n bytes ls} {τ : Nat → ℚ} {m i j : Nat}

/-- From before the first hold of a bit to after it: the clock's low time and the setup of mosi (R286). -/
theorem TimedReading.add_hold1_le (ht : TimedReading (transferEvents p h n bytes ls) τ) (hm : m < 8 * n) (hi : i < 3 + 6 * m)
    (hj : 3 + 6 * m < j) (hjn : j < 2 + 48 * n) : τ i + h ≤ τ j :=
  ht.add_hold_le (transferEvents_hold1 p h n bytes ls hm) hi hj (by rwa [transferEvents_length])

/-- From before the second hold of a bit to after it: the clock's high time, the hold of mosi, the lag of chip-select and the gap
between bytes (R286). -/
theorem TimedReading.add_hold2_le (ht : TimedReading (transferEvents p h n bytes ls) τ) (hm : m < 8 * n) (hi : i < 6 + 6 * m)
    (hj : 6 + 6 * m < j) (hjn : j < 2 + 48 * n) : τ i + h ≤ τ j :=
  ht.add_hold_le (transferEvents_hold2 p h n bytes ls hm) hi hj (by rwa [transferEvents_length])

/-- The period of the clock (R286): a bit has both holds. -/
theorem TimedReading.add_period_le (ht : TimedReading (transferEvents p h n bytes ls) τ) (hm : m < 8 * n) :
    τ (1 + 6 * m) + 2 * h ≤ τ (7 + 6 * m) := by
  have hlow := ht.add_hold1_le hm (i := 1 + 6 * m) (j := 4 + 6 * m) (by omega) (by omega) (by omega)
  have hhigh := ht.add_hold2_le hm (i := 4 + 6 * m) (j := 7 + 6 * m) (by omega) (by omega) (by omega)
  linarith

/-- The first `m` bits last at least `m` periods. -/
theorem TimedReading.add_periods_le (ht : TimedReading (transferEvents p h n bytes ls) τ) (hm : m ≤ 8 * n) :
    τ 1 + 2 * m * h ≤ τ (1 + 6 * m) := by
  induction m with
  | zero => simp
  | succ m ih =>
    have hperiod := ht.add_period_le (m := m) (by omega)
    have hbefore := ih (by omega)
    rw [show 1 + 6 * (m + 1) = 7 + 6 * m by omega]
    push_cast
    linarith

end

/-- Settles O59: the events by their positions; each bound of h is one of the bit's two holds, the period is both. -/
theorem wireTimingBounds : Obligations.WireTimingBounds := by
  intro p h n bytes ls
  have hbit {m : Nat} (hm : m < 8 * n) {r : Nat} (hr : r < 6) := transferEvents_bit p h n bytes ls hm hr
  refine ⟨transferEvents_csLow p h n bytes ls, transferEvents_csHigh p h n bytes ls, fun m hm => ?positions,
    fun τ ht => ⟨ht.mono (by omega) (by rw [transferEvents_length]; omega), fun m hm => ?bounds⟩⟩
  case positions =>
    exact ⟨hbit hm (r := 0) (by norm_num), hbit hm (r := 1) (by norm_num), hbit hm (r := 2) (by norm_num),
      hbit hm (r := 3) (by norm_num), hbit hm (r := 4) (by norm_num), hbit hm (r := 5) (by norm_num)⟩
  case bounds =>
    refine ⟨?clockLow, ?clockHigh, ht.add_period_le hm, ?mosiSetup, ?sampleDelay, fun hnext => ?mosiHold⟩
    case clockLow | mosiSetup => exact ht.add_hold1_le hm (by omega) (by omega) (by omega)
    case clockHigh | mosiHold => exact ht.add_hold2_le hm (by omega) (by omega) (by omega)
    case sampleDelay => exact ht.mono (by omega) (by rw [transferEvents_length]; omega)

/-- Settles O60: the events are those of O53, and 8·n bits last 8·n periods. -/
theorem transferLastsSixteenHoldsPerByte : Obligations.TransferLastsSixteenHoldsPerByte := by
  intro s n h he
  obtain ⟨t, hrun, -, -, -, htrace⟩ := xferRunAppendsItsTrace s n h he
  refine ⟨t, hrun, fun τ ht => ?_⟩
  rw [htrace, List.drop_left] at ht
  have hlead : τ 0 ≤ τ 1 := ht.mono (by omega) (by rw [transferEvents_length]; omega)
  have hbits := ht.add_periods_le (m := 8 * n) le_rfl
  rw [show 1 + 6 * (8 * n) = 1 + 48 * n by omega] at hbits
  push_cast at hbits
  linarith

end Sys2Proof.Machine
end

section
/-! Faults (60_exceptions.md R300 to R320): the order of the checks of a CMD write, the entry of a fault, CONCURRENT, and what ends the
fault state. O21, O22, O25, O26, O28, O29. -/

namespace Sys2Proof.Machine

section
variable {s t : State}

/-! ## The fault that a CMD write reports (R303 to R309, R311) -/

theorem Port.distinct_eq_false_iff (p : Port) : p.distinct = false ↔
    p.cs = p.clk ∨ p.cs = p.mosi ∨ p.cs = p.miso ∨ p.clk = p.mosi ∨ p.clk = p.miso ∨ p.mosi = p.miso := by
  rw [← Bool.not_eq_true, Port.distinct_iff]
  tauto

theorem Port.speedOk_eq_false_iff (p : Port) : p.speedOk = false ↔ s32 p.speed ≤ 0 := by
  rw [← Bool.not_eq_true, Port.speedOk_iff, not_lt]

theorem Memory.validBelow_eq_false_iff (m : Memory) (n : Nat) : m.validBelow n = false ↔ ∃ k < n, m.valid k = false := by
  rw [← Bool.not_eq_true, Memory.validBelow_iff]
  simp

theorem State.initialized_eq_false_iff (s : State) : s.initialized = false ↔ s.cfgPort ∉ s.inited ∨ s.dir s.cfgCs ≠ .output ∨
    s.dir s.cfgClk ≠ .output ∨ s.dir s.cfgMosi ≠ .output ∨ s.dir s.cfgMiso ≠ .input := by
  rw [← Bool.not_eq_true, State.initialized_iff]
  tauto

theorem cmdOp_of_reserved {v : Word} (hinit : v ≠ 1) (hxfer : v ≠ 2) : cmdOp v = none :=
  cmdOp_of_wf_cmdReserved (wf_cmdReserved_iff.mpr ⟨hinit, hxfer⟩)

/-- A word with another OP than INIT and XFER, or with a bit above OP, is neither command (R113). -/
theorem reserved_of_fields {v : Word} (h : v.toNat % 4 = 0 ∨ v.toNat % 4 = 3 ∨ v.toNat / 4 ≠ 0) : v ≠ 1 ∧ v ≠ 2 := by
  constructor <;> rintro rfl <;> revert h <;> decide

/-- A write of any CMD word is the same access, whichever row it decodes to (R125, R166). -/
theorem exec_writeCmdInstr (s : State) (v : Word) : exec (writeCmdInstr v) s = .next (s.writeCmd v) := by
  unfold writeCmdInstr
  split_ifs with hinit hxfer
  · rw [hinit]; rfl
  · rw [hxfer]; rfl
  · rfl

theorem State.command_of_commandFault {v : Word} {c : FaultCode} (h : s.commandFault v = some c) :
    s.command v = s.raiseFault c := by
  simp [State.command, h]

/-- With FAULT = 0 and BUSY = 0, a CMD write enters the fault that its checks find (R166, R310). -/
theorem State.afterFault_writeCmd {v : Word} {c : FaultCode} (hf : s.fault = false) (hb : s.busy = false)
    (h : s.commandFault v = some c) : s.AfterFault c (s.writeCmd v) := by
  rw [State.writeCmd, State.hostWrite_of_idle hf hb, State.command_of_commandFault h]
  exact State.afterFault_raiseFault hf c _

theorem State.commandFault_of_reserved {v : Word} (h : cmdOp v = none) : s.commandFault v = some .reservedCmd := by
  simp [State.commandFault, h]

theorem State.commandFault_init (s : State) : s.commandFault 1 = s.portFault := rfl

/-- XFER has the checks of INIT, and its own after them (R311). -/
theorem State.commandFault_xfer (s : State) : s.commandFault 2 = s.portFault.or s.transferFault := by
  have hop : cmdOp 2#32 = some .xfer := cmdOp_xfer
  cases hp : s.portFault <;> simp [State.commandFault, hop, hp]

theorem State.commandFault_of_portFault {v : Word} {c : FaultCode} (hv : v = 1 ∨ v = 2) (h : s.portFault = some c) :
    s.commandFault v = some c := by
  obtain rfl | rfl := hv
  · exact s.commandFault_init.trans h
  · rw [State.commandFault_xfer, h, Option.some_or]

/-- Settles O21: such a word is neither command, so it decodes to the reserved row and fails the first check. -/
theorem reservedCommandWordFaults : Obligations.ReservedCommandWordFaults := by
  intro s v h
  obtain ⟨hinit, hxfer⟩ := reserved_of_fields h
  refine ⟨?decoded, fun hb hf => ?faults⟩
  case decoded =>
    have henc : descriptor true 0x018 v = BitVec.ofNat 64 (0x8000001800000000 + v.toNat) := descriptor_eq_ofNat rfl
    rw [← henc]
    exact decodeOfEncodeIsIdentity (.cmdReserved v) (wf_cmdReserved_iff.mpr ⟨hinit, hxfer⟩)
  case faults =>
    exact ⟨_, rfl, State.afterFault_writeCmd hf hb (State.commandFault_of_reserved (cmdOp_of_reserved hinit hxfer))⟩

/-- Settles O22: FAULT and BUSY decide before the checks of the command, each of which is reached when the earlier ones pass. -/
theorem commandReportsTheFirstFault : Obligations.CommandReportsTheFirstFault := by
  intro s v run faults equalPins unwritten notInit
  have hrun : run = .next (s.writeCmd v) := exec_writeCmdInstr s v
  refine ⟨fun hf => ?faulted, fun hf hb => ?busy, fun hf hb => ?idle⟩
  case faulted => rw [hrun, State.writeCmd, State.hostWrite_of_fault hf]; rfl
  case busy => exact exec_concurrent hrun hf hb
  case idle =>
    have hfaults {c : FaultCode} (h : s.commandFault v = some c) : faults c := ⟨_, hrun, State.afterFault_writeCmd hf hb h⟩
    have hdistinct (h : ¬ equalPins) : s.cfgPort.distinct = true := by
      rw [← Bool.not_eq_false, Port.distinct_eq_false_iff]
      exact h
    refine ⟨?reserved, ?notReady, ?badPins, ?badSpeed, ?transfer⟩
    case reserved =>
      rintro ⟨hinit, hxfer⟩
      exact hfaults (State.commandFault_of_reserved (cmdOp_of_reserved hinit hxfer))
    case notReady =>
      intro hv hr
      exact hfaults (State.commandFault_of_portFault hv (by simp [State.portFault, hr]))
    case badPins =>
      intro hv hr hp
      have hd := (Port.distinct_eq_false_iff s.cfgPort).mpr hp
      exact hfaults (State.commandFault_of_portFault hv (by simp [State.portFault, hr, hd]))
    case badSpeed =>
      intro hv hr hp hs
      have hspeed := (Port.speedOk_eq_false_iff s.cfgPort).mpr hs
      exact hfaults (State.commandFault_of_portFault hv (by simp [State.portFault, hr, hdistinct hp, hspeed]))
    case transfer =>
      rintro rfl hr hp hs
      have hport := State.portFault_eq_none hr (hdistinct hp) ((Port.speedOk_iff _).mpr hs)
      have hcmd : s.commandFault 2 = s.transferFault := by rw [State.commandFault_xfer, hport, Option.none_or]
      refine ⟨fun hn => ?_, fun hn hv => ?_, fun hn hv hi => ?_⟩ <;> refine hfaults (hcmd.trans ?_)
      · simp [State.transferFault, hn]
      · have hbelow := (Memory.validBelow_eq_false_iff _ _).mpr hv
        simp [State.transferFault, not_lt.mpr hn, hbelow]
      · have hbelow : s.tx.validBelow s.len.toNat = true := by
          rw [← Bool.not_eq_false, Memory.validBelow_eq_false_iff]
          exact hv
        simp [State.transferFault, not_lt.mpr hn, hbelow, s.initialized_eq_false_iff.mpr hi]

/-- Settles O25: the port is not initialized, so the XFER's checks end in a fault, or FAULT was 1 before. -/
theorem noXferWithoutInit : Obligations.NoXferWithoutInit := by
  intro s t hin hb h
  cases hf : s.fault
  · change Host.Outcome.next (s.hostWrite (State.command CmdOp.xfer.word)) = _ at h
    rw [State.hostWrite_of_idle hf hb] at h
    obtain ⟨c, -, e⟩ | ⟨hv, -⟩ | ⟨-, -, hx, -⟩ := s.command_cases CmdOp.xfer.word
    · rw [e] at h
      cases h
      exact ⟨rfl, rfl, rfl⟩
    · cases hv
    · obtain ⟨-, -, hi⟩ := State.transferFault_none hx
      exact absurd (s.initialized_iff.mp hi).1 hin
  · rw [exec_of_fault (i := .xfer) ⟨_, rfl⟩ nofun hf] at h
    cases h
    exact ⟨hb, hf, rfl⟩

/-! ## CONCURRENT (R302) -/

/-- In the fault state the sequencer has no step (R200, R310). -/
theorem State.AfterFault.step_quiet {c : FaultCode} (h : s.AfterFault c t) :
    step { t with inbox := [] } = .next { t with inbox := [] } := by
  have hbusy : t.busy = false := by rw [h]
  have hphase : t.phase = Phase.idle := by rw [h]
  have hidle : State.microOp { t with inbox := [] } = .idle := State.microOp_of_idle hbusy (by rw [hphase]; decide)
  rw [step_microOp_of_quiet rfl, hidle]
  rfl

/-- Settles O29: each of the ten rows is a host write, and the fault that it raises leaves the sequencer idle. -/
theorem concurrentWriteStopsTheCommand : Obligations.ConcurrentWriteStopsTheCommand := by
  intro s v k hb hf hk i hi
  obtain ⟨f, hexec⟩ : ∃ f, exec i s = .next (s.hostWrite f) := by
    revert i
    simp only [List.forall_mem_cons]
    exact ⟨⟨_, rfl⟩, ⟨_, rfl⟩, ⟨_, rfl⟩, ⟨_, rfl⟩, ⟨_, rfl⟩, ⟨_, rfl⟩, ⟨_, exec_wrTxbuf hk v⟩,
      ⟨_, rfl⟩, ⟨_, rfl⟩, ⟨_, rfl⟩, nofun⟩
  obtain ⟨t, ht, hfault⟩ := exec_concurrent hexec hf hb
  exact ⟨t, ht, hfault, hfault.step_quiet⟩

/-! ## The entry of a fault (R310, R320) -/

theorem State.portFault_ne_driverError (s : State) : s.portFault ≠ some .driverError := by
  unfold State.portFault
  split_ifs <;> simp

theorem State.transferFault_ne_driverError (s : State) : s.transferFault ≠ some .driverError := by
  unfold State.transferFault
  split_ifs <;> simp

/-- No check of a command reports DRIVER_ERROR (R311). -/
theorem State.commandFault_ne_driverError (s : State) (v : Word) : s.commandFault v ≠ some .driverError := by
  unfold State.commandFault
  split
  · simp
  · exact s.portFault_ne_driverError
  · split
    next hp => rw [← hp]; exact s.portFault_ne_driverError
    next => exact s.transferFault_ne_driverError

/-- `s.HostFault t`: a host access raises a fault in `s`, never DRIVER_ERROR, and is answered (R300, log 10). -/
def State.HostFault (s t : State) : Prop := ∃ c, c ≠ .driverError ∧ t = (s.raiseFault c).reply .done

/-- A write whose effect raises no fault raises CONCURRENT only. -/
theorem State.hostFault_of_hostWrite {f : State → State} (hf : s.fault = false) (ht : (s.hostWrite f).fault = true)
    (hkeep : s.busy = false → (f s).fault = true → s.HostFault ((f s).reply .done)) : s.HostFault (s.hostWrite f) := by
  obtain ⟨hf', -⟩ | ⟨-, -, e⟩ | ⟨-, hb, e⟩ := s.hostWrite_cases f
  · simp [hf] at hf'
  · exact ⟨.concurrent, nofun, e⟩
  · rw [e] at ht ⊢
    exact hkeep hb ht

theorem State.hostFault_of_writeCmd {v : Word} (hf : s.fault = false) (ht : (s.writeCmd v).fault = true) :
    s.HostFault (s.writeCmd v) := by
  refine State.hostFault_of_hostWrite hf ht fun _ hfault => ?_
  obtain ⟨c, hc, e⟩ | ⟨-, -, e⟩ | ⟨-, -, -, e⟩ := s.command_cases v <;> rw [e] at hfault ⊢
  · exact ⟨c, fun h => s.commandFault_ne_driverError v (h ▸ hc), rfl⟩
  · simp [hf] at hfault
  · simp [hf] at hfault

theorem State.hostRead_fault (s : State) (ok : Bool) (v : Word) : (s.hostRead ok v).fault = s.fault := by
  obtain ⟨e, -⟩ | e := s.hostRead_cases ok v <;> rw [e] <;> rfl

/-- A host access that sets FAULT is a write. -/
theorem State.hostFault_of_exec {i : Instr} (hi : isHostAccess i) (h : exec i s = .next t) (hf : s.fault = false)
    (ht : t.fault = true) : s.HostFault t := by
  obtain ⟨d, hd⟩ := hi
  have hset {u : State} (hu : u.fault = s.fault) : u.fault ≠ true := by simp [hu, hf]
  cases i
  case rdCfgCs | rdCfgClk | rdCfgMosi | rdCfgMiso | rdCfgSpeed | rdLen | rdHalfNs | rdTxbuf | rdRxbuf =>
    cases h; exact absurd ht (hset (s.hostRead_fault _ _))
  case wrCfgCs | wrCfgClk | wrCfgMosi | wrCfgMiso | wrCfgSpeed | wrLen =>
    cases h; exact State.hostFault_of_hostWrite hf ht fun _ hu => absurd hu (hset rfl)
  case wrTxbuf k v =>
    obtain hk | hk := lt_or_ge k.toNat s.bufBytes
    · rw [exec_wrTxbuf hk] at h
      cases h
      exact State.hostFault_of_hostWrite hf ht fun _ hu => absurd hu (hset rfl)
    · rw [exec_wrTxbuf_of_unmapped hk] at h
      cases h
      exact absurd ht (hset rfl)
  case init | xfer | cmdReserved => cases h; exact State.hostFault_of_writeCmd hf ht
  case rdCmd | rdStatus | wrStatus | wrHalfNs | wrRxbuf | accessUnmapped => cases h; exact absurd ht (hset rfl)
  all_goals cases hd

/-- A micro-operation that sets FAULT is a failed request (R320). -/
theorem State.MicroStep.failed_of_fault {i : Instr} (h : s.MicroStep i t) (hf : s.fault = false) (ht : t.fault = true) :
    ∃ r, s.requestOf i = some r ∧ s.nextAnswer.err = true ∧ t = (s.drive r).driverError := by
  cases h with
  | @failed _ r hr he => exact ⟨r, hr, he, rfl⟩
  | @acked _ r hr he =>
    obtain ⟨p, b, l, x, e, -⟩ := (s.drive r).afterAck_eq (respond r s.nextAnswer) i
    simp [e, hf] at ht
  | idle | load | hold1 | hold2 | shift | store => simp [hf] at ht

/-- The request that a micro-operation issues is that of its phase code (R120). -/
theorem State.request_of_encode {i : Instr} {c : BitVec 5} {r : GpioRequest} (hc : encode i = .seq c)
    (hr : s.requestOf i = some r) : State.request { s with phase := c } = some r := by
  rw [State.request_eq_some_iff]
  cases i <;> cases hr <;> cases hc <;> rfl

/-- Settles O26: a host access raises a fault that is no DRIVER_ERROR and leaves the lines, a micro-operation raises DRIVER_ERROR when its
request fails. -/
theorem faultEntry : Obligations.FaultEntry := by
  intro i s t hw hf h ht
  cases henc : encode i with
  | bus d =>
    obtain ⟨c, hc, rfl⟩ := State.hostFault_of_exec ⟨d, henc⟩ h hf ht
    refine ⟨c, ?_⟩
    simp [hf, hc, State.cfgPort, State.dir, Phase.idle]
  | seq code =>
    obtain ⟨r, hr, he, rfl⟩ := (State.microStep_of_exec ⟨code, henc⟩ h).failed_of_fault hf ht
    have hlines : (∀ p, (s.drive r).dir p = s.dir p) ∧ (s.drive r).level r.pin = .unknown ∧
        ∀ q, q ≠ r.pin → (s.drive r).level q = s.level q := by
      rw [State.drive_err r he]
      refine ⟨State.dir_setLevel _ _ hw, (State.level_setLevel _ _ hw _).trans (if_pos rfl), fun q hq => ?_⟩
      exact (State.level_setLevel _ _ hw q).trans (if_neg hq.symm)
    obtain ⟨hdir, hpin, hother⟩ := hlines
    have htrace : (s.drive r).trace = s.trace := by rw [State.drive_err r he]; rfl
    refine ⟨.driverError, ?_⟩
    have hrequest := State.request_of_encode henc hr
    simpa [hf, htrace, hdir, hpin, State.cfgPort, Phase.idle] using ⟨r, hrequest, hpin, hother⟩

/-! ## FAULT and FCODE (R313) -/

/-- `s.FaultKept t`: FAULT is 1 in `t` and FCODE is that of `s`. -/
def State.FaultKept (s t : State) : Prop := t.fault = true ∧ t.fcode = s.fcode

/-- A request that fails while FAULT = 1 keeps the first code (R310). -/
theorem State.MicroStep.faultKept {i : Instr} (h : s.MicroStep i t) (hf : s.fault = true) : s.FaultKept t := by
  unfold State.FaultKept
  cases h with
  | failed hr he => simp [hf]
  | @acked _ r hr he =>
    obtain ⟨p, b, l, x, e, -⟩ := (s.drive r).afterAck_eq (respond r s.nextAnswer) i
    simp [e, hf]
  | idle | load | hold1 | hold2 | shift | store => simp [hf]

/-- Every outcome of a host access but its answer needs FAULT = 0. -/
theorem State.HostStep.faultKept (h : s.HostStep t) (hf : s.fault = true) : s.FaultKept t := by
  cases h with
  | answered a => exact ⟨hf, rfl⟩
  | raised _ hf' | config _ _ _ _ _ hf' | length _ hf' | txbuf _ _ _ hf' | init _ hf' | xfer _ _ hf' => simp [hf] at hf'

theorem State.platform_faultKept {x : Input} (hx : ∀ b, x ≠ .reset b) (hf : s.fault = true) : s.FaultKept (s.platform x) := by
  cases x with
  | access | accessAt | poll | drvReady => exact ⟨hf, rfl⟩
  | reset b => exact absurd rfl (hx b)

theorem State.isSequencer_microOp (s : State) : isSequencer s.microOp := by
  unfold State.microOp
  split_ifs
  · exact isSequencer_decodeSeq _
  · exact ⟨_, rfl⟩

/-- The first input of the inbox is fetched, in the state without it and without the turn, or the micro-operation at PHASE. -/
theorem State.fetch_firstInput_or_microOp (s : State) :
    (∃ x rest, s.inbox = x :: rest ∧ s.fetch = (fetchInput s.params x, s.takeTurn.popInput.platform x)) ∨
      s.fetch = (.run s.microOp, s.takeTurn) := by
  unfold State.fetch
  split
  next x rest hm hin => exact .inl ⟨x, rest, hin, rfl⟩
  next => exact .inr rfl

theorem State.takeTurn_flags (s : State) : s.takeTurn.fault = s.fault ∧ s.takeTurn.fcode = s.fcode := by
  obtain ⟨sch, n, e⟩ := s.takeTurn_eq_queued
  rw [e]
  exact ⟨rfl, rfl⟩

theorem State.popInput_flags (s : State) : s.popInput.fault = s.fault ∧ s.popInput.fcode = s.fcode := by
  obtain ⟨inb, e⟩ := s.popInput_eq_queued
  rw [e]
  exact ⟨rfl, rfl⟩

/-- Settles O28: a micro-operation, a host access and every platform event but RST keep both. -/
theorem onlyResetClearsAFault : Obligations.OnlyResetClearsAFault := by
  intro s t hf h
  obtain ⟨htf, htc⟩ := s.takeTurn_flags
  obtain ⟨x, rest, hin, hfetch⟩ | hfetch := s.fetch_firstInput_or_microOp
  · obtain ⟨hpf, hpc⟩ := s.takeTurn.popInput_flags
    by_cases hx : ∃ b, x = .reset b
    · obtain ⟨b, rfl⟩ := hx
      exact .inr ⟨b, rest, hin⟩
    · left
      have hf' : s.takeTurn.popInput.fault = true := by rw [hpf, htf, hf]
      rw [← htc, ← hpc]
      cases hi : fetchInput s.params x with
      | run i =>
        rw [hi] at hfetch
        obtain ⟨hhost, hplat⟩ := fetchInput_run hi
        rw [step_of_fetch_run hfetch, hplat] at h
        exact (State.hostStep_of_exec hhost h).faultKept hf'
      | event =>
        rw [hi] at hfetch
        rw [step_of_fetch_event hfetch] at h
        cases h
        exact State.platform_faultKept (not_exists.mp hx) hf'
      | invalid e =>
        rw [hi] at hfetch
        rw [step_of_fetch_invalid hfetch] at h
        cases h
  · left
    rw [step_of_fetch_run hfetch] at h
    rw [← htc]
    exact (State.microStep_of_exec s.isSequencer_microOp h).faultKept (htf.trans hf)

end

end Sys2Proof.Machine
end

section
/-! The state right after reset (10_state.md R42, 41_initialize.md R200, 70_reset_and_hazards.md R350): O42. -/

namespace Sys2Proof.Machine

/-- At reset the flags are clear (R38, R50), and no buffer entry is valid and no port in INITED (R350), so nothing has to be in bounds or
legal. -/
theorem State.reset_steady : State.reset.Steady := by
  obtain ⟨htx, hrx, hlines⟩ := State.reset_wf
  exact {
    faulted_eq := rfl
    fcode_zero := fun _ => rfl
    fcode_named := fun hf => absurd hf Bool.false_ne_true
    tx_wf := htx
    rx_wf := hrx
    lines_wf := hlines
    tx_bound := fun _ hk => absurd hk Bool.false_ne_true
    rx_bound := fun _ hk => absurd hk Bool.false_ne_true
    inited_nodup := List.nodup_nil
    inited_legal := fun _ hp => absurd hp List.not_mem_nil
    timer_idle := rfl }

/-- Settles O42: at reset BUSY = 0 and PHASE is IDLE, so the clauses of a running command ask nothing, and the others hold. -/
theorem invariantHoldsAtReset : Obligations.InvariantHoldsAtReset :=
  State.reset_steady.inv_of_idle rfl rfl

end Sys2Proof.Machine
end
